-- ==== Sys2Proof/Word.lean ====
section
/-! DEFINITION. The plain data types every other file uses: bytes, the 32-bit word, and the level of the one line. -/

namespace Sys2Proof

/-- A byte: "an unsigned integer 0..255" (00_scope.md R9). -/
abbrev Byte := BitVec 8

/-- A 32-bit register word (10_state.md R23, R25). -/
abbrev Word := BitVec 32

/-- The level a `read_level()` answers with (10_state.md R35). -/
inductive Level
  | low
  | high
deriving DecidableEq, Repr, Inhabited

end Sys2Proof
end

