-- ==== Sys2Proof/Config.lean ====
section
/-! DEFINITION. The build-time parameters of 00_scope.md R7, each a field of the configuration, and the free values of
the model. -/

namespace Sys2Proof

/-- A sense resistor of (num + 1) / (den + 1) ohms: "a positive rational" (00_scope.md R7), and no other value can be
written (93_implementation_defined.md U11; log 4). -/
structure Resistor where
  num : Nat
  den : Nat
deriving DecidableEq, Repr

/-- One number that a floating-point format can represent, num / (den + 1) (log 4). -/
structure FloatNumber where
  num : Int
  den : Nat
deriving DecidableEq, Repr

/-- NUMFMT, the "number format in which scaled physical values are delivered" (00_scope.md R7). -/
inductive NumFmt
  /-- "exact rational", the default of the spec -/
  | exact
  /-- a floating-point format, given by the numbers it can represent, at least one; the spec says nothing else of a
  format (44_decode.md R206) -/
  | floating (first : FloatNumber) (others : List FloatNumber)
deriving DecidableEq, Repr

/-- The fifteen parameters "fixed when the block is built" (00_scope.md R7); delays are in microseconds. No step
changes them (log 3). -/
structure Config where
  /-- idle gap before the reset low pulse -/
  tRSTG : Nat
  /-- reset low pulse -/
  tRSTL : Nat
  /-- release-to-presence-sample delay -/
  tPDS : Nat
  /-- recovery after the presence sample -/
  tRSTR : Nat
  /-- low time of a write-1 slot -/
  tW1L : Nat
  /-- released time that completes a write-1 slot -/
  tW1H : Nat
  /-- low time of a write-0 slot -/
  tW0L : Nat
  /-- released time that completes a write-0 slot -/
  tW0H : Nat
  /-- low time that opens a read slot -/
  tRDL : Nat
  /-- release-to-sample delay of a read slot -/
  tRDS : Nat
  /-- remainder of the read slot after the sample -/
  tRDR : Nat
  /-- bound on the readiness polls of a blocking read; 0 = unbounded (42_transactions.md R161). 32 bits wide like the
  counter it is compared with (60_exceptions.md R230). -/
  pollLimit : Word
  /-- R_SENSE: the sense resistor -/
  rSense : Resistor
  /-- NUMFMT: the number format of delivered physical values -/
  numFmt : NumFmt
  /-- TICKS_PER_US: clock ticks per microsecond of the delay collaborator -/
  ticksPerUs : Nat
deriving DecidableEq, Repr

/-- FREE VALUE (log 4): R_SENSE of the machine right after reset, "OPEN, no default" (00_scope.md R7). -/
opaque Config.freeRSenseNum : Nat

/-- FREE VALUE (log 4): see `Config.freeRSenseNum`. -/
opaque Config.freeRSenseDen : Nat

/-- FREE VALUE (log 4): TICKS_PER_US of the machine right after reset, "OPEN" (00_scope.md R7). -/
opaque Config.freeTicksPerUs : Nat

/-- The column "default of this spec" of 00_scope.md R7; the two OPEN parameters are free values. -/
def Config.default : Config where
  tRSTG := 0
  tRSTL := 480
  tPDS := 70
  tRSTR := 410
  tW1L := 6
  tW1H := 64
  tW0L := 60
  tW0H := 10
  tRDL := 6
  tRDS := 9
  tRDR := 55
  pollLimit := 0
  rSense := ⟨Config.freeRSenseNum, Config.freeRSenseDen⟩
  numFmt := .exact
  ticksPerUs := Config.freeTicksPerUs

/-- FREE VALUE (log 1): the answer of the line environment to the n-th `read_level()`, where no answer is scripted.
"Every sample is a free input of the step; no rule may assume a value for it" (10_state.md R35). -/
opaque Config.freeLevel : Nat → Level

/-- FREE VALUE (log 9): for the n-th host read, how many statements further on in the running operation the contents
lie that it returns while BUSY = 1. -/
opaque Config.freeReadPoint : Nat → Nat

/-- FREE VALUE (log 4): which of the nearest numbers of a floating-point format is delivered for an exact value, where
several are equally near: "not specified" (44_decode.md R206). -/
opaque Config.freeTie : ℚ → Nat

end Sys2Proof
end

