-- ==== Sys2Proof/Syntax.lean ====
section
/-! DEFINITION. The operations of DS2438-CORE, one constructor per row of spec/opcode_table.json (30_encoding.md R96). -/

namespace Sys2Proof

/-- An operation with the operands its command word carries (30_encoding.md R90, R96): ARG as a byte, LEN as four
bits, the crc_mode bit as a Bool. Bulk operands are in BUF. -/
inductive Instr
  /-- 0x01, 40_crc8.md R122 -/
  | crc8Compute (len : BitVec 4)
  /-- 0x02, 40_crc8.md R123 -/
  | crc8Check (expected : Byte) (len : BitVec 4)
  /-- 0x10, 41_transport.md R131 -/
  | reset
  /-- 0x11, 41_transport.md R132 -/
  | writeBit (value : Byte)
  /-- 0x12, 41_transport.md R134 -/
  | readBit
  /-- 0x13, 41_transport.md R135 -/
  | writeByte (value : Byte)
  /-- 0x14, 41_transport.md R136 -/
  | readByte
  /-- 0x15, 41_transport.md R137 -/
  | touchByte (value : Byte)
  /-- 0x16, 41_transport.md R138 -/
  | touchBlock (len : BitVec 4)
  /-- 0x20, 42_transactions.md R151 -/
  | devicePresent
  /-- 0x21, 42_transactions.md R152 -/
  | readRom (crc : Bool)
  /-- 0x22, 42_transactions.md R153 -/
  | readSerialNumber (crc : Bool)
  /-- 0x23, 42_transactions.md R154 -/
  | startVoltageConversion
  /-- 0x24, 42_transactions.md R155 -/
  | startTemperatureConversion
  /-- 0x25, 42_transactions.md R156 -/
  | readPage (page : Byte)
  /-- 0x26, 42_transactions.md R157 -/
  | writePage (page : Byte)
  /-- 0x27, 42_transactions.md R159 -/
  | hasVoltageData (crc : Bool)
  /-- 0x28, 42_transactions.md R160 -/
  | hasTemperatureData (crc : Bool)
  /-- 0x29, 42_transactions.md R162 -/
  | readVoltage (crc : Bool)
  /-- 0x2A, 42_transactions.md R163 -/
  | readTemperature (crc : Bool)
  /-- 0x2B, 42_transactions.md R164 -/
  | copyInProgress
  /-- 0x2C, 42_transactions.md R165 -/
  | readThreshold (crc : Bool)
  /-- 0x2D, 42_transactions.md R166 -/
  | getIca (crc : Bool)
  /-- 0x2E, 42_transactions.md R167 -/
  | getCapacity (crc : Bool)
  /-- 0x30, 43_flags.md R181 -/
  | selectInputSource (source : Byte) (crc : Bool)
  /-- 0x31, 43_flags.md R182 -/
  | enableIad
  /-- 0x32, 43_flags.md R183 -/
  | disableIad
  /-- 0x33, 43_flags.md R184 -/
  | enableCa
  /-- 0x34, 43_flags.md R185 -/
  | disableCa
  /-- 0x35, 43_flags.md R186 -/
  | enableShadowEe
  /-- 0x36, 43_flags.md R187 -/
  | disableShadowEe
  /-- 0x37, 43_flags.md R188 -/
  | writeThreshold (value : Byte)
  /-- 0x40, 44_decode.md R201 -/
  | decodeTemperature
  /-- 0x41, 44_decode.md R202 -/
  | decodeVoltage
  /-- 0x42, 44_decode.md R203 -/
  | decodeCurrent
  /-- 0x43, 44_decode.md R204 -/
  | decodeCapacity
deriving DecidableEq, Repr

end Sys2Proof
end

