-- ==== Sys2Proof/Machine/State.lean ====
section
/-! DEFINITION. The state of DS2438-CORE as plain data (10_state.md), its parts, the reset state, and the reasons a
step can stop. -/

namespace Sys2Proof.Machine

/-- The result codes of RESULT (10_state.md R27, 60_exceptions.md R220). Values 6 and 7 are never produced. -/
inductive ResultCode
  | ok
  | deviceNotFound
  | crcFail
  | badParam
  | error
  | timeout
deriving DecidableEq, Repr

/-- One event of the bus event history H: one completed slot (00_scope.md R13). -/
inductive BusEvent
  /-- `RST(s)`: a reset sequence whose presence sample was `s` -/
  | rst (s : Level)
  /-- `W(b)`: a write slot of bit `b` -/
  | w (b : Bool)
  /-- `R(s)`: a read slot whose sample was `s` -/
  | r (s : Level)
deriving DecidableEq, Repr

/-- One event of the pin event history (00_scope.md R13): one call of a pin primitive (60_exceptions.md R236). -/
inductive PinEvent
  /-- `DL`: drive_low() -/
  | dl
  /-- `RL`: release() -/
  | rl
  /-- `DLY(n)`: delay(n) -/
  | dly (n : Nat)
  /-- `SMP(s)`: read_level() returned `s` -/
  | smp (s : Level)
deriving DecidableEq, Repr

/-- Which conversion a readiness test or a blocking read is about (42_transactions.md R159 to R163). -/
inductive Poll
  | voltage
  | temperature
deriving DecidableEq, Repr

/-- The bits of the status byte that the core writes (20_memory.md R62). -/
inductive StatusBit
  | iad
  | ca
  | ee
  | ad
deriving DecidableEq, Repr

/-- Whose bytes a CRC evaluation runs over (40_crc8.md R124). -/
inductive CrcSource
  | buf
  | rom
deriving DecidableEq, Repr

/-- What a `return` puts into RVAL on success, where it is not 0 (30_encoding.md R96, column RVAL). -/
inductive RetVal
  /-- 1: presence detected -/
  | one
  /-- the byte or bit in SHIFT -/
  | shift
  /-- the CRC just computed -/
  | crc
  /-- 1 if the CRC just computed is `expected`, else 0 -/
  | crcMatches (expected : Byte)
  /-- `dec_temp(BUF)`, sign-extended -/
  | temperature
  /-- `dec_volt(BUF)` -/
  | voltage
  /-- `dec_curr(BUF)`, sign-extended -/
  | current
  /-- `dec_cap(BUF)` = `BUF[4]` -/
  | capacity
  /-- `BUF[0][5]`: EEPROM copy in progress -/
  | copyFlag
  /-- `BUF[7][7:6]` -/
  | threshold
deriving DecidableEq, Repr

/-- One statement of the pseudocode of 40_crc8.md to 44_decode.md. Every statement holds at most one slot (R30). -/
inductive Stmt
  /-- `if not legal then fail BadParam` -/
  | param (legal : Bool)
  /-- `if not Reset() then fail DeviceNotFound` -/
  | reset
  /-- `WriteBit(b)` -/
  | writeBit (b : Bool)
  /-- take `x` as the byte to send or to assemble: SHIFT <- x, BITCNT <- 0 -/
  | load (x : Byte)
  /-- the same with the byte BUF[BYTECNT] -/
  | loadBuf
  /-- `WriteBit(SHIFT[BITCNT])`, one bit of WriteByte -/
  | sendBit
  /-- `SHIFT[BITCNT] <- ReadBit()`, one bit of ReadByte -/
  | recvBit
  /-- one bit of TouchByte: ReadBit where the outgoing bit is 1, WriteBit(0) where it is 0 -/
  | touchBit
  /-- the head of `for k = 0 ..`: BYTECNT <- 0 -/
  | startBlock
  /-- `BUF[k] <- SHIFT`, next k -/
  | storeBuf
  /-- `ROM[k] <- SHIFT`, next k -/
  | storeRom
  /-- next k after a byte sent -/
  | nextByte
  /-- `c = 0x00`, the start of a CRC evaluation: CRCREG <- 0 -/
  | crcInit
  /-- `c = CrcBit(c, data[k][i])`, one input bit of a CRC evaluation over BUF or ROM -/
  | crcBit (src : CrcSource) (k i : Nat)
  /-- `if crc8(BUF[0..7]) != BUF[8] then fail CrcFail`, with the CRC standing in CRCREG -/
  | checkBuf
  /-- `if crc8(ROM[0..6]) != ROM[7] then fail CrcFail`, with the CRC standing in CRCREG -/
  | checkRom
  /-- `if BUF[0][6] = 1` (voltage) or `BUF[0][4] = 1` (temperature) `then fail Error` -/
  | failIfBusy (q : Poll)
  /-- set or clear one bit of BUF[0] -/
  | setStatus (bit : StatusBit) (v : Bool)
  /-- `BUF[7] <- (value << 6) & 0xFF` -/
  | setThreshold (value : Byte)
  /-- `if BUF[0][0] = 1 then SetStatusBit(0, 0)`, then the rest of write_threshold -/
  | pauseIad (value : Byte)
  /-- POLLCNT <- 0, then the readiness loop and the decode of a blocking read -/
  | pollLoop (q : Poll) (crc : Bool)
  /-- `RVAL <- v; return Ok` -/
  | ret (v : RetVal)
deriving DecidableEq, Repr

/-- How a statement ends. -/
inductive Flow
  /-- go on with the next statement -/
  | go
  /-- `return Ok` with this value -/
  | ret (v : Word)
  /-- `fail code` -/
  | fail (c : ResultCode)
  /-- go on with these statements -/
  | branch (k : List Stmt)
  /-- enter the readiness loop -/
  | poll (q : Poll) (crc : Bool)
deriving DecidableEq, Repr

/-- SEQ, the sequencer position (10_state.md R30): "a position in the pseudocode of the issued operation's rule". -/
inductive Seq
  /-- `Idle`: no operation runs -/
  | idle
  /-- an operation was issued and none of its statements has run -/
  | issued
  /-- the statements still to run, outside the readiness loop -/
  | running (k : List Stmt)
  /-- inside the readiness loop of R161: the statements of this poll still to run -/
  | polling (q : Poll) (crc : Bool) (k : List Stmt)
deriving DecidableEq, Repr

/-- One turn of `agenda`: which agent moves next (00_scope.md R14; log 6). -/
inductive Turn
  /-- the host writes `v` to the register at offset `off` (10_state.md R29) -/
  | write (off : BitVec 6) (v : Word)
  /-- the host reads the register at offset `off` -/
  | read (off : BitVec 6)
  /-- the core takes one statement, so at most one slot (10_state.md R30) -/
  | slot
  /-- the core runs on to the end of its operation, or of one readiness poll -/
  | core
  /-- the platform asserts `rst` after `n` more pin primitives of the statement in progress (70_reset_and_hazards.md R252) -/
  | rst (n : Nat)
deriving DecidableEq, Repr

/-- Why the machine stops. -/
inductive Fault
  /-- Raised by `step` when BUSY and SEQ contradict each other, which 10_state.md R26 and R30 say never happens.
  Safe: no step makes such a state from one that has none (log 13). -/
  | incoherentSequencer
deriving DecidableEq, Repr

/-- Why an instruction has no meaning. -/
inductive Refusal
  /-- Raised by a refused arm of `exec`; there is none. Safe. -/
  | notModelled (mnemonic : String)
deriving DecidableEq, Repr

/-- The whole state (10_state.md R20), then the configuration (log 3) and the model's own fields (log 1, 2, 6, 8, 9). -/
@[ext]
structure State where
  /-- BUF[0..8], the page buffer (R21) -/
  buf : Vector Byte 9
  /-- ROM[0..7], the ROM buffer (R22) -/
  rom : Vector Byte 8
  /-- RVAL, the value register (R23) -/
  rval : Word
  /-- CRCREG (R24) -/
  crcreg : Byte
  /-- CMD, the command word (R25) -/
  cmd : Word
  /-- RESULT (R27) -/
  result : ResultCode
  /-- STATUS.BUSY (R26) -/
  busy : Bool
  /-- STATUS.DONE (R26) -/
  done : Bool
  /-- STATUS.PRESENCE (R26) -/
  presence : Bool
  /-- LINE_DRV: true while the core pulls the line low (R32) -/
  lineDrv : Bool
  /-- SEQ (R30) -/
  seq : Seq
  /-- SHIFT (R31) -/
  shift : Byte
  /-- BITCNT (R31) -/
  bitcnt : BitVec 4
  /-- BYTECNT (R31) -/
  bytecnt : BitVec 4
  /-- POLLCNT (R31, 60_exceptions.md R230) -/
  pollcnt : Word
  /-- the build-time parameters (00_scope.md R7); no step changes them -/
  cfg : Config
  /-- model's own: the scripted answers of the line environment, by sample number (R35) -/
  samples : List Level
  /-- model's own: how many samples have been taken -/
  drawn : Nat
  /-- model's own: the bus event history H (00_scope.md R13), oldest first, since reset -/
  bus : List BusEvent
  /-- model's own: the pin event history (00_scope.md R13), oldest first -/
  pins : List PinEvent
  /-- model's own: the turns to come, first one first; empty = the core runs on -/
  agenda : List Turn
  /-- model's own: what the last host read returned (R29) -/
  readData : Word
  /-- model's own: how many host reads there have been, the index of the next free read point -/
  reads : Nat
deriving DecidableEq, Repr

/-- The state after hardware reset: the table of 10_state.md R37 (70_reset_and_hazards.md R250), the parameters at the
defaults of 00_scope.md R7, and the model's own fields empty. -/
def State.reset : State where
  buf := #v[0, 0, 0, 0, 0, 0, 0, 0, 0]
  rom := #v[0, 0, 0, 0, 0, 0, 0, 0]
  rval := 0
  crcreg := 0
  cmd := 0
  result := .ok
  busy := false
  done := false
  presence := false
  lineDrv := false
  seq := .idle
  shift := 0
  bitcnt := 0
  bytecnt := 0
  pollcnt := 0
  cfg := Config.default
  samples := []
  drawn := 0
  bus := []
  pins := []
  agenda := []
  readData := 0
  reads := 0

end Sys2Proof.Machine
end

