-- ==== Sys2Proof/Machine/Flags.lean ====
section
/-! DEFINITION. The flag computations: the numeric result codes (10_state.md R27), the STATUS word (R26). The
core has no condition codes (R28). -/

namespace Sys2Proof.Machine

/-- The value of RESULT (10_state.md R27). -/
def ResultCode.code : ResultCode → BitVec 3
  | .ok => 0
  | .deviceNotFound => 1
  | .crcFail => 2
  | .badParam => 3
  | .error => 4
  | .timeout => 5

/-- STATUS as the host reads it: BUSY, DONE, PRESENCE in bits 0, 1, 2, the rest 0 (10_state.md R26). -/
def State.statusWord (s : State) : Word :=
  (BitVec.ofBool s.busy).zeroExtend 32 ||| ((BitVec.ofBool s.done).zeroExtend 32 <<< 1)
    ||| ((BitVec.ofBool s.presence).zeroExtend 32 <<< 2)

/-- RESULT as the host reads it: "bits 31:3 read as 0" (10_state.md R27). -/
def State.resultWord (s : State) : Word := s.result.code.zeroExtend 32

/-- PRESENCE after a sample: "(s = low)" (41_transport.md R131). -/
def presenceOf : Level → Bool
  | .low => true
  | .high => false

end Sys2Proof.Machine
end

