-- ==== Sys2Proof/WellFormed.lean ====
section
/-! DEFINITION. Which operations have legal operands (30_encoding.md R91, R100; the table's column "legal"). -/

namespace Sys2Proof

/-- "`LEN` 0..9" (30_encoding.md R90, R100). -/
def legalLen (n : BitVec 4) : Bool := decide (n.toNat ≤ 9)

/-- Page numbers are 0..7 (20_memory.md R72). -/
def legalPage (p : Byte) : Bool := decide (p.toNat ≤ 7)

/-- The bit to write is 0 or 1 (41_transport.md R132). -/
def legalBit (b : Byte) : Bool := decide (b.toNat ≤ 1)

/-- The input-source selector is VAD = 0 or VDD = 1 (30_encoding.md R93). -/
def legalSource (v : Byte) : Bool := decide (v.toNat ≤ 1)

/-- The threshold value is 0..3 (43_flags.md R188). -/
def legalThreshold (v : Byte) : Bool := decide (v.toNat ≤ 3)

/-- Every operand of the operation is within its legal values (30_encoding.md R91). -/
def Instr.wellFormed : Instr → Bool
  | .crc8Compute n => legalLen n
  | .crc8Check _ n => legalLen n
  | .reset => true
  | .writeBit b => legalBit b
  | .readBit => true
  | .writeByte _ => true
  | .readByte => true
  | .touchByte _ => true
  | .touchBlock n => legalLen n
  | .devicePresent => true
  | .readRom _ => true
  | .readSerialNumber _ => true
  | .startVoltageConversion => true
  | .startTemperatureConversion => true
  | .readPage p => legalPage p
  | .writePage p => legalPage p
  | .hasVoltageData _ => true
  | .hasTemperatureData _ => true
  | .readVoltage _ => true
  | .readTemperature _ => true
  | .copyInProgress => true
  | .readThreshold _ => true
  | .getIca _ => true
  | .getCapacity _ => true
  | .selectInputSource v _ => legalSource v
  | .enableIad => true
  | .disableIad => true
  | .enableCa => true
  | .disableCa => true
  | .enableShadowEe => true
  | .disableShadowEe => true
  | .writeThreshold v => legalThreshold v
  | .decodeTemperature => true
  | .decodeVoltage => true
  | .decodeCurrent => true
  | .decodeCapacity => true

end Sys2Proof
end

