-- ==== Sys2Proof/Machine/Frames.lean ====
section
/-! DEFINITION. The statement sequences of the helpers the operations are built of: bytes, frames, `RomRead`,
`PageRead`, `PageWrite`, `PageReadChecked`, `SetStatusBit` and the parts of the blocking read. -/

namespace Sys2Proof.Machine

/-! ### Bytes (41_transport.md R135 to R137) -/

/-- `WriteByte(x)`: eight write slots, bit 0 first. -/
def writeByteSeq (x : Byte) : List Stmt := .load x :: List.replicate 8 .sendBit

/-- `WriteByte(BUF[k])` with k the running byte index. -/
def writeBufSeq : List Stmt := .loadBuf :: List.replicate 8 .sendBit

/-- `ReadByte()`: eight read slots, bit 0 first, into SHIFT. -/
def readByteSeq : List Stmt := .load 0 :: List.replicate 8 .recvBit

/-- `TouchByte(x)`. -/
def touchByteSeq (x : Byte) : List Stmt := .load x :: List.replicate 8 .touchBit

/-! ### Blocks: `for k = 0 .. n-1` -/

/-- `body` n times. -/
def repeatSeq (n : Nat) (body : List Stmt) : List Stmt := (List.replicate n body).flatten

/-- `for k = 0 .. 8: BUF[k] <- ReadByte()` (42_transactions.md R156). -/
def receivePageSeq : List Stmt := .startBlock :: repeatSeq 9 (readByteSeq ++ [.storeBuf])

/-- `for k = 0 .. 7: ROM[k] <- ReadByte()` (42_transactions.md R152). -/
def receiveRomSeq : List Stmt := .startBlock :: repeatSeq 8 (readByteSeq ++ [.storeRom])

/-- `for k = 0 .. 8: WriteByte(BUF[k])` (42_transactions.md R157). -/
def sendPageSeq : List Stmt := .startBlock :: repeatSeq 9 (writeBufSeq ++ [.nextByte])

/-- `for k = 0 .. n-1: BUF[k] <- TouchByte(BUF[k])` (41_transport.md R138). -/
def touchBlockSeq (n : Nat) : List Stmt :=
  .startBlock :: repeatSeq n (.loadBuf :: List.replicate 8 .touchBit ++ [.storeBuf])

/-! ### CRC evaluations (10_state.md R24, 40_crc8.md R121) -/

/-- `crc8` over the bytes 0 .. n-1 of BUF or ROM: CRCREG set to 0, then updated once per input bit, bytes in order and
least significant bit first. -/
def crcSeq (src : CrcSource) (n : Nat) : List Stmt :=
  .crcInit :: (List.range n).flatMap fun k => (List.range 8).map fun i => .crcBit src k i

/-- `if crc8(BUF[0..7]) != BUF[8] then fail CrcFail` (40_crc8.md R124). -/
def checkBufSeq : List Stmt := crcSeq .buf 8 ++ [.checkBuf]

/-- `if crc8(ROM[0..6]) != ROM[7] then fail CrcFail` (40_crc8.md R124). -/
def checkRomSeq : List Stmt := crcSeq .rom 7 ++ [.checkRom]

/-! ### Frames (30_encoding.md R97, R99) -/

/-- `Reset, WB(0xCC), WB(cmd)`. -/
def functionFrame (command : Byte) : List Stmt := .reset :: (writeByteSeq 0xCC ++ writeByteSeq command)

/-- `Reset, WB(0xCC), WB(cmd), WB(page)`. -/
def pageFrame (command page : Byte) : List Stmt := functionFrame command ++ writeByteSeq page

/-! ### The transactions the operations share -/

/-- `RomRead(c)` (42_transactions.md R152). -/
def romRead (c : Bool) : List Stmt :=
  .reset :: (writeByteSeq 0x33 ++ receiveRomSeq ++ (if c then checkRomSeq else []))

/-- `StartVolt()`, `StartTemp()` (42_transactions.md R154, R155). -/
def startConversion : Poll → List Stmt
  | .voltage => functionFrame 0xB4
  | .temperature => functionFrame 0x44

/-- `PageRead(p)` (42_transactions.md R156): recall memory, read scratchpad, nine bytes. -/
def pageRead (p : Byte) : List Stmt :=
  .param (legalPage p) :: (pageFrame 0xB8 p ++ pageFrame 0xBE p ++ receivePageSeq)

/-- `PageWrite(p)` (42_transactions.md R157): write scratchpad, nine bytes, copy scratchpad. -/
def pageWrite (p : Byte) : List Stmt :=
  .param (legalPage p) :: (pageFrame 0x4E p ++ sendPageSeq ++ pageFrame 0x48 p)

/-- `PageReadChecked(p, c)` (42_transactions.md R158). -/
def pageReadChecked (p : Byte) (c : Bool) : List Stmt := pageRead p ++ (if c then checkBufSeq else [])

/-- `HasVolt(c)`, `HasTemp(c)` (42_transactions.md R159, R160). -/
def hasData (q : Poll) (c : Bool) : List Stmt := pageReadChecked 0 c ++ [.failIfBusy q]

/-- What a blocking read decodes at its end (42_transactions.md R162, R163). -/
def Poll.decode : Poll → RetVal
  | .voltage => .voltage
  | .temperature => .temperature

/-- What follows the readiness loop: "fresh page for the decode", then the decode (42_transactions.md R161). -/
def finalRead (q : Poll) (c : Bool) : List Stmt :=
  pageReadChecked 0 c ++ [.ret q.decode]

/-- `SetStatusBit(b, v)` (43_flags.md R180). -/
def setStatusBit (b : StatusBit) (v : Bool) : List Stmt := pageRead 0 ++ [.setStatus b v] ++ pageWrite 0

/-- The end of `write_threshold` (43_flags.md R188): byte 7, then the write. -/
def thresholdTail (value : Byte) : List Stmt := .setThreshold value :: pageWrite 0

/-- What follows the first page read of `write_threshold`: with IAD enabled, a complete `disable_iad` first. -/
def thresholdRest (iad : Bool) (value : Byte) : List Stmt :=
  (if iad then setStatusBit .iad false else []) ++ thresholdTail value

end Sys2Proof.Machine
end

