-- ==== Sys2Proof/Machine/Operands.lean ====
section
/-! DEFINITION. Operand helpers: bit and byte assembly (00_scope.md R9, R10), the CRC function (40_crc8.md), reads and
writes of BUF and ROM (R11), the pure decodes (44_decode.md) and the values a `return` delivers. -/

namespace Sys2Proof

/-! ### What the parameters of 00_scope.md R7 stand for -/

/-- The resistance of R_SENSE in ohms. -/
def Resistor.ohms (r : Resistor) : ℚ := ((r.num : ℚ) + 1) / ((r.den : ℚ) + 1)

/-- The rational that a number of a floating-point format is. -/
def FloatNumber.value (x : FloatNumber) : ℚ := (x.num : ℚ) / ((x.den : ℚ) + 1)

/-- The clock ticks the delay collaborator counts for `delay(n)` (60_exceptions.md R236). -/
def Config.delayTicks (cfg : Config) (n : Nat) : Nat := n * cfg.ticksPerUs

namespace Machine

/-! ### Bits and bytes -/

/-- `x` with bit `i` made `b`: `x | (1 << i)` or `x & ~(1 << i)`, at 8 bits (43_flags.md R180). -/
def setBit (x : Byte) (i : Nat) (b : Bool) : Byte :=
  if b then x ||| (1#8 <<< i) else x &&& ~~~(1#8 <<< i)

/-- "v = 1 if s = high else 0" (41_transport.md R134). -/
def bitOfLevel : Level → Bool
  | .high => true
  | .low => false

/-- `u16(hi, lo) = hi * 256 + lo` (00_scope.md R10). -/
def u16 (hi lo : Byte) : BitVec 16 := hi ++ lo

/-- A 16-bit pattern read as two's complement (00_scope.md R10). -/
def s16 (w : BitVec 16) : Int := if w.toNat < 32768 then (w.toNat : Int) else (w.toNat : Int) - 65536

/-- An integer as a 32-bit two's complement word (10_state.md R23). -/
def wordOfInt (v : Int) : Word := BitVec.ofInt 32 v

/-- A truth value as RVAL holds it: "1 = true, 0 = false" (10_state.md R23). -/
def wordOfBool (b : Bool) : Word := if b then 1 else 0

/-- A byte zero-extended to RVAL (10_state.md R23). -/
def wordOfByte (x : Byte) : Word := x.zeroExtend 32

/-! ### The CRC8 function -/

/-- `CrcBit(c, d)` (40_crc8.md R120): shift right, then XOR with 0x8C if the feedback bit is 1. -/
def crcBit (c : Byte) (d : Bool) : Byte :=
  let fb := c.getLsbD 0 ^^ d
  let c' := c >>> 1
  if fb then c' ^^^ 0x8C#8 else c'

/-- The eight bit steps of one byte, bit 0 first (40_crc8.md R121). -/
def crcByte (c x : Byte) : Byte :=
  crcBit (crcBit (crcBit (crcBit (crcBit (crcBit (crcBit (crcBit c (x.getLsbD 0)) (x.getLsbD 1)) (x.getLsbD 2))
    (x.getLsbD 3)) (x.getLsbD 4)) (x.getLsbD 5)) (x.getLsbD 6)) (x.getLsbD 7)

/-- The CRC register after a byte sequence, starting from `c`. -/
def crcFrom (c : Byte) : List Byte → Byte
  | [] => c
  | x :: xs => crcFrom (crcByte c x) xs

/-- `crc8(data)` (40_crc8.md R121): "Initial CRC = 0", no final inversion. -/
def crc8 (data : List Byte) : Byte := crcFrom 0 data

/-! ### BUF and ROM -/

/-- The alias `SERIAL[j] = ROM[j+1]` (10_state.md R22, 42_transactions.md R153). -/
def State.serial (s : State) (j : Fin 6) : Byte := s.rom[j.val + 1]

/-- The byte `data[k]` of a CRC evaluation: BUF[k] or ROM[k]; k is within bounds wherever the sequences read it (log 19). -/
def State.crcData (s : State) (src : CrcSource) (k : Nat) : Byte :=
  match src with
  | .buf => (s.buf[k]?).getD 0
  | .rom => (s.rom[k]?).getD 0

/-- `BUF[BYTECNT]`; BYTECNT is 0..8 wherever the sequences read it (log 11). -/
def State.bufAtByteCount (s : State) : Byte := (s.buf[s.bytecnt.toNat]?).getD 0

/-! ### The pure decodes of a page (44_decode.md) -/

/-- `dec_temp(BUF)`: "combine into a signed 16-bit word, then arithmetic-shift right 3" (R201). -/
def decTemp (buf : Vector Byte 9) : Int := s16 (u16 buf[2] buf[1]) / 8

/-- `dec_volt(BUF)` (R202). -/
def decVolt (buf : Vector Byte 9) : Int := (u16 buf[4] buf[3]).toNat

/-- `dec_curr(BUF)` (R203): invert, mask and negate where the two top bits of the 10-bit field are 2 or 3, else all
sixteen bits as two's complement. -/
def decCurr (buf : Vector Byte 9) : Int :=
  let w := u16 buf[6] buf[5]
  let f := buf[6] &&& 0x03#8
  if 1 < f.toNat then -(((~~~w) &&& 0x3FF#16).toNat : Int) else s16 w

/-- `dec_cap(BUF)` (R204). -/
def decCap (buf : Vector Byte 9) : Int := buf[4].toNat

/-! ### The physical values (44_decode.md R206): exact rationals, not registers -/

/-- Temperature in degrees Celsius (R201). -/
def celsius (raw : Int) : ℚ := (raw : ℚ) / 32

/-- Voltage in volts (R202). -/
def volts (raw : Int) : ℚ := (raw : ℚ) / 100

/-- Current in amperes (R203), for a sense resistor of `rSense` ohms. -/
def amperes (rSense : ℚ) (raw : Int) : ℚ := (raw : ℚ) / (4096 * rSense)

/-- Capacity (R204, 42_transactions.md R167), for a sense resistor of `rSense` ohms. -/
def capacityOf (rSense : ℚ) (raw : Int) : ℚ := (raw : ℚ) / (2048 * rSense)

/-- The temperature that the page in BUF decodes to. -/
def State.celsiusOfBuf (s : State) : ℚ := celsius (decTemp s.buf)

/-- The voltage that the page in BUF decodes to. -/
def State.voltsOfBuf (s : State) : ℚ := volts (decVolt s.buf)

/-- The current that the page in BUF decodes to, with this machine's R_SENSE. -/
def State.amperesOfBuf (s : State) : ℚ := amperes s.cfg.rSense.ohms (decCurr s.buf)

/-- The capacity that the page in BUF decodes to, with this machine's R_SENSE. -/
def State.capacityOfBuf (s : State) : ℚ := capacityOf s.cfg.rSense.ohms (decCap s.buf)

/-! ### Delivery in the number format NUMFMT (44_decode.md R206; log 4) -/

/-- The numbers of a format that lie nearest to `x`. -/
def nearestNumbers (numbers : List FloatNumber) (x : ℚ) : List FloatNumber :=
  numbers.filter fun v => numbers.all fun w => decide (|v.value - x| ≤ |w.value - x|)

/-- The value that is delivered for the exact value `x`: `x` itself, or "the value of that format nearest to the exact
rational"; which of several equally near ones is free. -/
def deliver (f : NumFmt) (x : ℚ) : ℚ :=
  match f with
  | .exact => x
  | .floating first others =>
    let nearest := nearestNumbers (first :: others) x
    ((nearest[Config.freeTie x % nearest.length]?).getD first).value

/-- The temperature as this machine delivers it, in degrees Celsius. -/
def State.celsiusDelivered (s : State) : ℚ := deliver s.cfg.numFmt s.celsiusOfBuf

/-- The voltage as this machine delivers it, in volts. -/
def State.voltsDelivered (s : State) : ℚ := deliver s.cfg.numFmt s.voltsOfBuf

/-- The current as this machine delivers it, in amperes. -/
def State.amperesDelivered (s : State) : ℚ := deliver s.cfg.numFmt s.amperesOfBuf

/-- The capacity as this machine delivers it. -/
def State.capacityDelivered (s : State) : ℚ := deliver s.cfg.numFmt s.capacityOfBuf

/-! ### Status bits and returned values -/

/-- The bit number of a status flag the core writes (20_memory.md R62). -/
def StatusBit.index : StatusBit → Nat
  | .iad => 0
  | .ca => 1
  | .ee => 2
  | .ad => 3

/-- The busy bit of a conversion in the status byte: "bit6 for voltage, bit4 for temperature" (42_transactions.md R159). -/
def Poll.busyBit : Poll → Nat
  | .voltage => 6
  | .temperature => 4

/-- The value RVAL receives (30_encoding.md R96). -/
def RetVal.value (s : State) : RetVal → Word
  | .one => 1
  | .shift => wordOfByte s.shift
  | .crc => wordOfByte s.crcreg
  | .crcMatches e => wordOfBool (decide (s.crcreg = e))
  | .temperature => wordOfInt (decTemp s.buf)
  | .voltage => wordOfInt (decVolt s.buf)
  | .current => wordOfInt (decCurr s.buf)
  | .capacity => wordOfInt (decCap s.buf)
  | .copyFlag => wordOfBool (s.buf[0].getLsbD 5)
  | .threshold => wordOfByte (s.buf[7] >>> 6)

end Machine

end Sys2Proof
end

