-- ==== Sys2Proof/Machine/Ops.lean ====
section
/-! DEFINITION. The named operations: line samples, pin primitives, slots, completion and failure, the effect of one
statement, and running a sequence of statements to its end. -/

namespace Sys2Proof.Machine

/-! ### The line environment (10_state.md R35) -/

/-- The answer to sample number `n`: the scripted one, else the free value (log 1). -/
def State.levelAt (s : State) (n : Nat) : Level := (s.samples[n]?).getD (Config.freeLevel n)

/-- The k-th sample still to come. -/
def State.level (s : State) (k : Nat) : Level := s.levelAt (s.drawn + k)

/-! ### The four pin primitives (60_exceptions.md R236) -/

def State.driveLow (s : State) : State := { s with lineDrv := true, pins := s.pins ++ [.dl] }

def State.release (s : State) : State := { s with lineDrv := false, pins := s.pins ++ [.rl] }

/-- "Changes no state"; the history records it. -/
def State.delay (s : State) (n : Nat) : State := { s with pins := s.pins ++ [.dly n] }

/-- The state after one `read_level()`; its answer is `s.level 0`. -/
def State.sampled (s : State) : State := { s with drawn := s.drawn + 1, pins := s.pins ++ [.smp (s.level 0)] }

/-! ### The slots (41_transport.md R131, R132, R134) -/

/-- `Reset()`; it returns true exactly when `s.level 0` is low. -/
def State.resetSlot (s : State) : State :=
  let t := (((((s.delay s.cfg.tRSTG).driveLow).delay s.cfg.tRSTL).release).delay s.cfg.tPDS).sampled.delay s.cfg.tRSTR
  { t with presence := presenceOf (s.level 0), bus := t.bus ++ [.rst (s.level 0)] }

/-- `WriteBit(b)`. -/
def State.writeBit (s : State) (b : Bool) : State :=
  let t :=
    if b then ((s.driveLow.delay s.cfg.tW1L).release).delay s.cfg.tW1H
    else ((s.driveLow.delay s.cfg.tW0L).release).delay s.cfg.tW0H
  { t with bus := t.bus ++ [.w b] }

/-- `ReadBit()`; it returns `s.level 0` read as a bit. -/
def State.readBit (s : State) : State :=
  let t := (((s.driveLow.delay s.cfg.tRDL).release).delay s.cfg.tRDS).sampled.delay s.cfg.tRDR
  { t with bus := t.bus ++ [.r (s.level 0)] }

/-! ### Bits of the byte in SHIFT -/

/-- The bit of SHIFT that BITCNT points at. -/
def State.shiftBit (s : State) : Bool := s.shift.getLsbD s.bitcnt.toNat

/-- One bit of `WriteByte` (R135). -/
def State.sendBit (s : State) : State := { s.writeBit s.shiftBit with bitcnt := s.bitcnt + 1 }

/-- One bit of `ReadByte` (R136). -/
def State.recvBit (s : State) : State :=
  { s.readBit with shift := setBit s.shift s.bitcnt.toNat (bitOfLevel (s.level 0)), bitcnt := s.bitcnt + 1 }

/-- One bit of `TouchByte` (R137): the result bit replaces the outgoing bit in SHIFT. -/
def State.touchBit (s : State) : State := if s.shiftBit then s.recvBit else s.sendBit

/-! ### Completion and failure (60_exceptions.md R225) -/

/-- Any completion: RESULT, RVAL, SEQ to Idle, BUSY <- 0, DONE <- 1, and nothing else. -/
def State.complete (s : State) (c : ResultCode) (v : Word) : State :=
  { s with result := c, rval := v, seq := .idle, busy := false, done := true }

/-- `fail Code`, the one exceptional mechanism (R225): nothing is restored, RVAL <- 0. -/
def State.fail (s : State) (c : ResultCode) : State := s.complete c 0

/-! ### One statement -/

/-- The effect of one statement: how it ends, and the state after it. It neither reads nor writes SEQ. -/
def doStmt : Stmt → State → Flow × State
  | .param legal, s => (if legal then .go else .fail .badParam, s)
  | .reset, s => (if s.level 0 = .low then .go else .fail .deviceNotFound, s.resetSlot)
  | .writeBit b, s => (.go, s.writeBit b)
  | .load x, s => (.go, { s with shift := x, bitcnt := 0 })
  | .loadBuf, s => (.go, { s with shift := s.bufAtByteCount, bitcnt := 0 })
  | .sendBit, s => (.go, s.sendBit)
  | .recvBit, s => (.go, s.recvBit)
  | .touchBit, s => (.go, s.touchBit)
  | .startBlock, s => (.go, { s with bytecnt := 0 })
  | .storeBuf, s =>
    (.go, { s with buf := s.buf.setIfInBounds s.bytecnt.toNat s.shift, bytecnt := s.bytecnt + 1 })
  | .storeRom, s =>
    (.go, { s with rom := s.rom.setIfInBounds s.bytecnt.toNat s.shift, bytecnt := s.bytecnt + 1 })
  | .nextByte, s => (.go, { s with bytecnt := s.bytecnt + 1 })
  | .crcInit, s => (.go, { s with crcreg := 0 })
  | .crcBit src k i, s => (.go, { s with crcreg := crcBit s.crcreg ((s.crcData src k).getLsbD i) })
  | .checkBuf, s => (if s.crcreg = s.buf[8] then .go else .fail .crcFail, s)
  | .checkRom, s => (if s.crcreg = s.rom[7] then .go else .fail .crcFail, s)
  | .failIfBusy q, s => (if s.buf[0].getLsbD q.busyBit then .fail .error else .go, s)
  | .setStatus b v, s => (.go, { s with buf := s.buf.set 0 (setBit s.buf[0] b.index v) })
  | .setThreshold v, s => (.go, { s with buf := s.buf.set 7 (v <<< 6) })
  | .pauseIad v, s => (.branch (thresholdRest (s.buf[0].getLsbD 0) v), s)
  | .pollLoop q c, s => (.poll q c, { s with pollcnt := 0 })
  | .ret v, s => (.ret (v.value s), s)

/-! ### Sequences of statements -/

/-- Run statements in written order up to the first that does not simply go on. -/
def runSeq : List Stmt → State → Flow × State
  | [], s => (.go, s)
  | m :: ms, s =>
    match doStmt m s with
    | (.go, s') => runSeq ms s'
    | r => r

/-- One more turn of the readiness loop, or its bound (42_transactions.md R161): POLLCNT counts the poll just made. -/
def State.pollAgain (s : State) (q : Poll) (c : Bool) : State :=
  let t := { s with pollcnt := s.pollcnt + 1 }
  if 0 < t.cfg.pollLimit.toNat ∧ t.cfg.pollLimit.toNat ≤ t.pollcnt.toNat then t.fail .timeout
  else { t with seq := .polling q c (hasData q c) }

/-- The end of a sequence: falling off the end is `RVAL <- 0; return Ok`. A branch or a loop entered here is left for
the next step. -/
def settle : Flow × State → State
  | (.go, s) => s.complete .ok 0
  | (.ret v, s) => s.complete .ok v
  | (.fail c, s) => s.fail c
  | (.branch k, s) => { s with seq := .running k }
  | (.poll q c, s) => { s with seq := .polling q c (hasData q c) }

/-- Finish the poll whose statements still to run are `k`: on `Ok` leave the loop, read the page afresh and decode;
on any other result poll again (42_transactions.md R161). -/
def pollOnce (q : Poll) (c : Bool) (k : List Stmt) (s : State) : State :=
  match runSeq k s with
  | (.go, s') => settle (runSeq (finalRead q c) { s' with pollcnt := s'.pollcnt + 1 })
  | (_, s') => s'.pollAgain q c

/-- Run an operation's statements to its end; in a blocking read whose poll does not succeed, to the end of that poll. -/
def runOp (k : List Stmt) (s : State) : State :=
  match runSeq k s with
  | (.branch k', s') => settle (runSeq k' s')
  | (.poll q c, s') => pollOnce q c (hasData q c) s'
  | r => settle r

end Sys2Proof.Machine
end

