-- ==== Sys2Proof/Machine/Crc8.lean ====
section
/-! DEFINITION. The CRC8 Engine's operations (40_crc8.md). -/

namespace Sys2Proof.Machine

/-- R122: "if n > 9 then fail BadParam", CRC of BUF[0..n-1], RVAL <- it. -/
def seqCrc8Compute (n : BitVec 4) : List Stmt := .param (legalLen n) :: (crcSeq .buf n.toNat ++ [.ret .crc])

def execCrc8Compute (n : BitVec 4) (s : State) : Host.Outcome State Fault Refusal := .next (runOp (seqCrc8Compute n) s)

/-- R123: RVAL <- 1 if the CRC of BUF[0..n-1] is `expected`, else 0; `Ok` in both cases. -/
def seqCrc8Check (expected : Byte) (n : BitVec 4) : List Stmt :=
  .param (legalLen n) :: (crcSeq .buf n.toNat ++ [.ret (.crcMatches expected)])

def execCrc8Check (expected : Byte) (n : BitVec 4) (s : State) : Host.Outcome State Fault Refusal :=
  .next (runOp (seqCrc8Check expected n) s)

end Sys2Proof.Machine
end

