-- ==== Sys2Proof/Machine/DecodeLayer.lean ====
section
/-! DEFINITION. The Decode Layer's host operations (44_decode.md): no transport call, no failure (R200). -/

namespace Sys2Proof.Machine

/-- R201. -/
def seqDecodeTemperature : List Stmt := [.ret .temperature]

def execDecodeTemperature (s : State) : Host.Outcome State Fault Refusal := .next (runOp seqDecodeTemperature s)

/-- R202. -/
def seqDecodeVoltage : List Stmt := [.ret .voltage]

def execDecodeVoltage (s : State) : Host.Outcome State Fault Refusal := .next (runOp seqDecodeVoltage s)

/-- R203. -/
def seqDecodeCurrent : List Stmt := [.ret .current]

def execDecodeCurrent (s : State) : Host.Outcome State Fault Refusal := .next (runOp seqDecodeCurrent s)

/-- R204. -/
def seqDecodeCapacity : List Stmt := [.ret .capacity]

def execDecodeCapacity (s : State) : Host.Outcome State Fault Refusal := .next (runOp seqDecodeCapacity s)

end Sys2Proof.Machine
end

