-- ==== Sys2Proof/Machine/FlagOps.lean ====
section
/-! DEFINITION. The Transaction Layer: flag manipulation and threshold write (43_flags.md). -/

namespace Sys2Proof.Machine

/-- R181: the selector check before any bus activity; VDD = 1 sets bit 3, VAD = 0 clears it (30_encoding.md R93; log 15). -/
def seqSelectInputSource (source : Byte) (c : Bool) : List Stmt :=
  .param (legalSource source) :: (pageReadChecked 0 c ++ [.setStatus .ad (source.getLsbD 0)] ++ pageWrite 0)

def execSelectInputSource (source : Byte) (c : Bool) (s : State) : Host.Outcome State Fault Refusal :=
  .next (runOp (seqSelectInputSource source c) s)

/-- R182: sets bit 0. -/
def seqEnableIad : List Stmt := setStatusBit .iad true

def execEnableIad (s : State) : Host.Outcome State Fault Refusal := .next (runOp seqEnableIad s)

/-- R183: clears bit 0. -/
def seqDisableIad : List Stmt := setStatusBit .iad false

def execDisableIad (s : State) : Host.Outcome State Fault Refusal := .next (runOp seqDisableIad s)

/-- R184: sets bit 1. -/
def seqEnableCa : List Stmt := setStatusBit .ca true

def execEnableCa (s : State) : Host.Outcome State Fault Refusal := .next (runOp seqEnableCa s)

/-- R185: clears bit 1. -/
def seqDisableCa : List Stmt := setStatusBit .ca false

def execDisableCa (s : State) : Host.Outcome State Fault Refusal := .next (runOp seqDisableCa s)

/-- R186: sets bit 2. -/
def seqEnableShadowEe : List Stmt := setStatusBit .ee true

def execEnableShadowEe (s : State) : Host.Outcome State Fault Refusal := .next (runOp seqEnableShadowEe s)

/-- R187: clears bit 2. -/
def seqDisableShadowEe : List Stmt := setStatusBit .ee false

def execDisableShadowEe (s : State) : Host.Outcome State Fault Refusal := .next (runOp seqDisableShadowEe s)

/-- R188: the range check, a page-0 read, a complete nested `disable_iad` if IAD is enabled, then byte 7 and the write. -/
def seqWriteThreshold (value : Byte) : List Stmt :=
  .param (legalThreshold value) :: (pageRead 0 ++ [.pauseIad value])

def execWriteThreshold (value : Byte) (s : State) : Host.Outcome State Fault Refusal :=
  .next (runOp (seqWriteThreshold value) s)

end Sys2Proof.Machine
end

