-- ==== Sys2Proof/Machine/Transactions.lean ====
section
/-! DEFINITION. The Transaction Layer: presence, ROM, conversions, pages, readiness tests, blocking reads and
single-field reads (42_transactions.md). -/

namespace Sys2Proof.Machine

/-- R151: "identical to the host operation `reset` in every effect". -/
def seqDevicePresent : List Stmt := [.reset, .ret .one]

def execDevicePresent (s : State) : Host.Outcome State Fault Refusal := .next (runOp seqDevicePresent s)

/-- R152. -/
def seqReadRom (c : Bool) : List Stmt := romRead c

def execReadRom (c : Bool) (s : State) : Host.Outcome State Fault Refusal := .next (runOp (seqReadRom c) s)

/-- R153: `RomRead(c)`; the serial number is the alias `State.serial`. -/
def seqReadSerialNumber (c : Bool) : List Stmt := romRead c

def execReadSerialNumber (c : Bool) (s : State) : Host.Outcome State Fault Refusal :=
  .next (runOp (seqReadSerialNumber c) s)

/-- R154. -/
def seqStartVoltageConversion : List Stmt := startConversion .voltage

def execStartVoltageConversion (s : State) : Host.Outcome State Fault Refusal :=
  .next (runOp seqStartVoltageConversion s)

/-- R155. -/
def seqStartTemperatureConversion : List Stmt := startConversion .temperature

def execStartTemperatureConversion (s : State) : Host.Outcome State Fault Refusal :=
  .next (runOp seqStartTemperatureConversion s)

/-- R156: `BadParam` for a page number above 7, before any bus activity. -/
def seqReadPage (p : Byte) : List Stmt := pageRead p

def execReadPage (p : Byte) (s : State) : Host.Outcome State Fault Refusal := .next (runOp (seqReadPage p) s)

/-- R157: the nine bytes of BUF, BUF[8] included, as they are. -/
def seqWritePage (p : Byte) : List Stmt := pageWrite p

def execWritePage (p : Byte) (s : State) : Host.Outcome State Fault Refusal := .next (runOp (seqWritePage p) s)

/-- R159. -/
def seqHasVoltageData (c : Bool) : List Stmt := hasData .voltage c

def execHasVoltageData (c : Bool) (s : State) : Host.Outcome State Fault Refusal :=
  .next (runOp (seqHasVoltageData c) s)

/-- R160. -/
def seqHasTemperatureData (c : Bool) : List Stmt := hasData .temperature c

def execHasTemperatureData (c : Bool) (s : State) : Host.Outcome State Fault Refusal :=
  .next (runOp (seqHasTemperatureData c) s)

/-- R161, R162: start, poll until ready, read afresh, decode. One `exec` runs the start and the first poll and, if that
poll answers Ok, the rest; otherwise BUSY stays 1 and every further step makes one more poll (log 6). -/
def seqReadVoltage (c : Bool) : List Stmt := startConversion .voltage ++ [.pollLoop .voltage c]

def execReadVoltage (c : Bool) (s : State) : Host.Outcome State Fault Refusal := .next (runOp (seqReadVoltage c) s)

/-- R161, R163: as `read_voltage`, with the temperature's start, busy bit and decode. -/
def seqReadTemperature (c : Bool) : List Stmt := startConversion .temperature ++ [.pollLoop .temperature c]

def execReadTemperature (c : Bool) (s : State) : Host.Outcome State Fault Refusal :=
  .next (runOp (seqReadTemperature c) s)

/-- R164: no CRC check. -/
def seqCopyInProgress : List Stmt := pageRead 0 ++ [.ret .copyFlag]

def execCopyInProgress (s : State) : Host.Outcome State Fault Refusal := .next (runOp seqCopyInProgress s)

/-- R165. -/
def seqReadThreshold (c : Bool) : List Stmt := pageReadChecked 0 c ++ [.ret .threshold]

def execReadThreshold (c : Bool) (s : State) : Host.Outcome State Fault Refusal := .next (runOp (seqReadThreshold c) s)

/-- R166: page 1, byte 4. -/
def seqGetIca (c : Bool) : List Stmt := pageReadChecked 1 c ++ [.ret .capacity]

def execGetIca (c : Bool) (s : State) : Host.Outcome State Fault Refusal := .next (runOp (seqGetIca c) s)

/-- R167: as `get_ica`; the capacity is `State.capacityOfBuf`. -/
def seqGetCapacity (c : Bool) : List Stmt := pageReadChecked 1 c ++ [.ret .capacity]

def execGetCapacity (c : Bool) (s : State) : Host.Outcome State Fault Refusal := .next (runOp (seqGetCapacity c) s)

end Sys2Proof.Machine
end

