-- ==== Sys2Proof/Machine/Transport.lean ====
section
/-! DEFINITION. The Bus Transport's host operations (41_transport.md). -/

namespace Sys2Proof.Machine

/-- R131: `Reset()`; RVAL <- 1 if presence was detected, else DeviceNotFound. -/
def seqReset : List Stmt := [.reset, .ret .one]

def execReset (s : State) : Host.Outcome State Fault Refusal := .next (runOp seqReset s)

/-- R132: "if value > 1 then fail BadParam", else one write slot. -/
def seqWriteBit (v : Byte) : List Stmt := [.param (legalBit v), .writeBit (v.getLsbD 0)]

def execWriteBit (v : Byte) (s : State) : Host.Outcome State Fault Refusal := .next (runOp (seqWriteBit v) s)

/-- R134: one read slot; RVAL <- the bit. -/
def seqReadBit : List Stmt := [.load 0, .recvBit, .ret .shift]

def execReadBit (s : State) : Host.Outcome State Fault Refusal := .next (runOp seqReadBit s)

/-- R135. -/
def seqWriteByte (x : Byte) : List Stmt := writeByteSeq x

def execWriteByte (x : Byte) (s : State) : Host.Outcome State Fault Refusal := .next (runOp (seqWriteByte x) s)

/-- R136: RVAL <- the byte. -/
def seqReadByte : List Stmt := readByteSeq ++ [.ret .shift]

def execReadByte (s : State) : Host.Outcome State Fault Refusal := .next (runOp seqReadByte s)

/-- R137: RVAL <- the result byte. -/
def seqTouchByte (x : Byte) : List Stmt := touchByteSeq x ++ [.ret .shift]

def execTouchByte (x : Byte) (s : State) : Host.Outcome State Fault Refusal := .next (runOp (seqTouchByte x) s)

/-- R138: "if n > 9 then fail BadParam", else `TouchByte` of BUF[0..n-1] in place. -/
def seqTouchBlock (n : BitVec 4) : List Stmt := .param (legalLen n) :: touchBlockSeq n.toNat

def execTouchBlock (n : BitVec 4) (s : State) : Host.Outcome State Fault Refusal := .next (runOp (seqTouchBlock n) s)

end Sys2Proof.Machine
end

