-- ==== Sys2Proof/Machine/Dispatch.lean ====
section
/-! DEFINITION. The meaning of every operation, one arm per constructor. -/

namespace Sys2Proof.Machine

def exec (i : Instr) (s : State) : Host.Outcome State Fault Refusal :=
  match i with
  | .crc8Compute n => Sys2Proof.Machine.execCrc8Compute n s
  | .crc8Check e n => Sys2Proof.Machine.execCrc8Check e n s
  | .reset => Sys2Proof.Machine.execReset s
  | .writeBit v => Sys2Proof.Machine.execWriteBit v s
  | .readBit => Sys2Proof.Machine.execReadBit s
  | .writeByte x => Sys2Proof.Machine.execWriteByte x s
  | .readByte => Sys2Proof.Machine.execReadByte s
  | .touchByte x => Sys2Proof.Machine.execTouchByte x s
  | .touchBlock n => Sys2Proof.Machine.execTouchBlock n s
  | .devicePresent => Sys2Proof.Machine.execDevicePresent s
  | .readRom c => Sys2Proof.Machine.execReadRom c s
  | .readSerialNumber c => Sys2Proof.Machine.execReadSerialNumber c s
  | .startVoltageConversion => Sys2Proof.Machine.execStartVoltageConversion s
  | .startTemperatureConversion => Sys2Proof.Machine.execStartTemperatureConversion s
  | .readPage p => Sys2Proof.Machine.execReadPage p s
  | .writePage p => Sys2Proof.Machine.execWritePage p s
  | .hasVoltageData c => Sys2Proof.Machine.execHasVoltageData c s
  | .hasTemperatureData c => Sys2Proof.Machine.execHasTemperatureData c s
  | .readVoltage c => Sys2Proof.Machine.execReadVoltage c s
  | .readTemperature c => Sys2Proof.Machine.execReadTemperature c s
  | .copyInProgress => Sys2Proof.Machine.execCopyInProgress s
  | .readThreshold c => Sys2Proof.Machine.execReadThreshold c s
  | .getIca c => Sys2Proof.Machine.execGetIca c s
  | .getCapacity c => Sys2Proof.Machine.execGetCapacity c s
  | .selectInputSource v c => Sys2Proof.Machine.execSelectInputSource v c s
  | .enableIad => Sys2Proof.Machine.execEnableIad s
  | .disableIad => Sys2Proof.Machine.execDisableIad s
  | .enableCa => Sys2Proof.Machine.execEnableCa s
  | .disableCa => Sys2Proof.Machine.execDisableCa s
  | .enableShadowEe => Sys2Proof.Machine.execEnableShadowEe s
  | .disableShadowEe => Sys2Proof.Machine.execDisableShadowEe s
  | .writeThreshold v => Sys2Proof.Machine.execWriteThreshold v s
  | .decodeTemperature => Sys2Proof.Machine.execDecodeTemperature s
  | .decodeVoltage => Sys2Proof.Machine.execDecodeVoltage s
  | .decodeCurrent => Sys2Proof.Machine.execDecodeCurrent s
  | .decodeCapacity => Sys2Proof.Machine.execDecodeCapacity s

end Sys2Proof.Machine
end

