-- ==== Sys2Proof/Decode.lean ====
section
/-! DEFINITION. The host command word: its fields, the decoder (total, rejecting by name), the encoder, the opcode
map as match and mask (30_encoding.md R90 to R96, R100, R101). -/

namespace Sys2Proof

/-- Why a word is reserved (30_encoding.md R100): each reason of the rule has a name. -/
inductive DecodeError
  /-- "its OP is not one of the 36 codes of rule R96" -/
  | unknownOp
  /-- "a reserved bit (19:17, 31:24) is 1" -/
  | reservedBits
  /-- ARG is not 0 in an operation that does not use it -/
  | argNotZero
  /-- CRC is not 0 in an operation that does not use it -/
  | crcNotZero
  /-- LEN is not 0 in an operation that does not use it -/
  | lenNotZero
  /-- "`LEN > 9` in an operation that uses LEN" -/
  | lenOutOfRange
  /-- "`ARG > 1` in `write_bit`" -/
  | bitOutOfRange
deriving DecidableEq, Repr

/-! ### The fields of a word (R90) -/

def opField (w : Word) : Byte := w.extractLsb' 0 8

def argField (w : Word) : Byte := w.extractLsb' 8 8

def crcField (w : Word) : Bool := w.getLsbD 16

def lenField (w : Word) : BitVec 4 := w.extractLsb' 20 4

/-- Bits 19:17 and 31:24, which "must be 0". -/
def reservedField (w : Word) : Word := w &&& 0xFF0E0000#32

/-! ### Which operand fields a row uses (R96) -/

/-- The row uses ARG, CRC and LEN as the three flags say; an unused field must be 0 (R100). -/
def unusedFieldsZero (usesArg usesCrc usesLen : Bool) (w : Word) (i : Instr) : Except DecodeError Instr :=
  if usesArg = false ∧ argField w ≠ 0 then .error .argNotZero
  else if usesCrc = false ∧ crcField w = true then .error .crcNotZero
  else if usesLen = false ∧ lenField w ≠ 0 then .error .lenNotZero
  else .ok i

def decodePlain (w : Word) (i : Instr) : Except DecodeError Instr := unusedFieldsZero false false false w i

def decodeArg (w : Word) (i : Instr) : Except DecodeError Instr := unusedFieldsZero true false false w i

def decodeCrc (w : Word) (i : Instr) : Except DecodeError Instr := unusedFieldsZero false true false w i

def decodeArgCrc (w : Word) (i : Instr) : Except DecodeError Instr := unusedFieldsZero true true false w i

/-- A row that uses LEN, and ARG where `usesArg` says so: LEN above 9 is reserved. -/
def decodeLen (usesArg : Bool) (w : Word) (i : Instr) : Except DecodeError Instr :=
  if legalLen (lenField w) then unusedFieldsZero usesArg false true w i else .error .lenOutOfRange

/-- `write_bit`: ARG above 1 is reserved. -/
def decodeBit (w : Word) (i : Instr) : Except DecodeError Instr :=
  if legalBit (argField w) then decodeArg w i else .error .bitOutOfRange

/-- The row that the operation code selects (R96). -/
def decodeOp (w : Word) : Except DecodeError Instr :=
  match (opField w).toNat with
  | 0x01 => decodeLen false w (.crc8Compute (lenField w))
  | 0x02 => decodeLen true w (.crc8Check (argField w) (lenField w))
  | 0x10 => decodePlain w .reset
  | 0x11 => decodeBit w (.writeBit (argField w))
  | 0x12 => decodePlain w .readBit
  | 0x13 => decodeArg w (.writeByte (argField w))
  | 0x14 => decodePlain w .readByte
  | 0x15 => decodeArg w (.touchByte (argField w))
  | 0x16 => decodeLen false w (.touchBlock (lenField w))
  | 0x20 => decodePlain w .devicePresent
  | 0x21 => decodeCrc w (.readRom (crcField w))
  | 0x22 => decodeCrc w (.readSerialNumber (crcField w))
  | 0x23 => decodePlain w .startVoltageConversion
  | 0x24 => decodePlain w .startTemperatureConversion
  | 0x25 => decodeArg w (.readPage (argField w))
  | 0x26 => decodeArg w (.writePage (argField w))
  | 0x27 => decodeCrc w (.hasVoltageData (crcField w))
  | 0x28 => decodeCrc w (.hasTemperatureData (crcField w))
  | 0x29 => decodeCrc w (.readVoltage (crcField w))
  | 0x2A => decodeCrc w (.readTemperature (crcField w))
  | 0x2B => decodePlain w .copyInProgress
  | 0x2C => decodeCrc w (.readThreshold (crcField w))
  | 0x2D => decodeCrc w (.getIca (crcField w))
  | 0x2E => decodeCrc w (.getCapacity (crcField w))
  | 0x30 => decodeArgCrc w (.selectInputSource (argField w) (crcField w))
  | 0x31 => decodePlain w .enableIad
  | 0x32 => decodePlain w .disableIad
  | 0x33 => decodePlain w .enableCa
  | 0x34 => decodePlain w .disableCa
  | 0x35 => decodePlain w .enableShadowEe
  | 0x36 => decodePlain w .disableShadowEe
  | 0x37 => decodeArg w (.writeThreshold (argField w))
  | 0x40 => decodePlain w .decodeTemperature
  | 0x41 => decodePlain w .decodeVoltage
  | 0x42 => decodePlain w .decodeCurrent
  | 0x43 => decodePlain w .decodeCapacity
  | _ => .error .unknownOp

/-- The decoder: total on every word. A page number, selector or threshold outside its range is NOT refused here: the
source's own `BadParam` checks stand in those operations' meanings (R100, R156, R157, R181, R188; log 10). -/
def decode (w : Word) : Except DecodeError Instr :=
  if reservedField w ≠ 0 then .error .reservedBits else decodeOp w

/-! ### The encoder -/

/-- "A word is `OP | ARG << 8 | CRC << 16 | LEN << 20`" (R90). -/
def commandWord (op arg : Byte) (crc : Bool) (len : BitVec 4) : Word :=
  op.zeroExtend 32 ||| (arg.zeroExtend 32 <<< 8) ||| ((BitVec.ofBool crc).zeroExtend 32 <<< 16)
    ||| (len.zeroExtend 32 <<< 20)

/-- The command word of an operation, from the table of R96. -/
def encode : Instr → Word
  | .crc8Compute n => commandWord 0x01 0 false n
  | .crc8Check e n => commandWord 0x02 e false n
  | .reset => commandWord 0x10 0 false 0
  | .writeBit b => commandWord 0x11 b false 0
  | .readBit => commandWord 0x12 0 false 0
  | .writeByte x => commandWord 0x13 x false 0
  | .readByte => commandWord 0x14 0 false 0
  | .touchByte x => commandWord 0x15 x false 0
  | .touchBlock n => commandWord 0x16 0 false n
  | .devicePresent => commandWord 0x20 0 false 0
  | .readRom c => commandWord 0x21 0 c 0
  | .readSerialNumber c => commandWord 0x22 0 c 0
  | .startVoltageConversion => commandWord 0x23 0 false 0
  | .startTemperatureConversion => commandWord 0x24 0 false 0
  | .readPage p => commandWord 0x25 p false 0
  | .writePage p => commandWord 0x26 p false 0
  | .hasVoltageData c => commandWord 0x27 0 c 0
  | .hasTemperatureData c => commandWord 0x28 0 c 0
  | .readVoltage c => commandWord 0x29 0 c 0
  | .readTemperature c => commandWord 0x2A 0 c 0
  | .copyInProgress => commandWord 0x2B 0 false 0
  | .readThreshold c => commandWord 0x2C 0 c 0
  | .getIca c => commandWord 0x2D 0 c 0
  | .getCapacity c => commandWord 0x2E 0 c 0
  | .selectInputSource v c => commandWord 0x30 v c 0
  | .enableIad => commandWord 0x31 0 false 0
  | .disableIad => commandWord 0x32 0 false 0
  | .enableCa => commandWord 0x33 0 false 0
  | .disableCa => commandWord 0x34 0 false 0
  | .enableShadowEe => commandWord 0x35 0 false 0
  | .disableShadowEe => commandWord 0x36 0 false 0
  | .writeThreshold v => commandWord 0x37 v false 0
  | .decodeTemperature => commandWord 0x40 0 false 0
  | .decodeVoltage => commandWord 0x41 0 false 0
  | .decodeCurrent => commandWord 0x42 0 false 0
  | .decodeCapacity => commandWord 0x43 0 false 0

/-! ### The opcode map as match and mask (R94, R95) -/

/-- The mask of R95: all ones, with the bits of the used operand fields cleared. -/
def rowMask (usesArg usesCrc usesLen : Bool) : Word :=
  0xFFFFFFFF#32 &&& ~~~((if usesArg then 0x0000FF00#32 else 0) ||| (if usesCrc then 0x00010000#32 else 0)
    ||| (if usesLen then 0x00F00000#32 else 0))

/-- The rows of R96 as (match, mask): "the match is its OP code". -/
def opcodeRows : List (Word × Word) :=
  [(0x01, rowMask false false true), (0x02, rowMask true false true)] ++
  [(0x10, rowMask false false false), (0x11, rowMask true false false), (0x12, rowMask false false false),
   (0x13, rowMask true false false), (0x14, rowMask false false false), (0x15, rowMask true false false),
   (0x16, rowMask false false true)] ++
  [(0x20, rowMask false false false), (0x21, rowMask false true false), (0x22, rowMask false true false),
   (0x23, rowMask false false false), (0x24, rowMask false false false), (0x25, rowMask true false false),
   (0x26, rowMask true false false), (0x27, rowMask false true false), (0x28, rowMask false true false),
   (0x29, rowMask false true false), (0x2A, rowMask false true false), (0x2B, rowMask false false false),
   (0x2C, rowMask false true false), (0x2D, rowMask false true false), (0x2E, rowMask false true false)] ++
  [(0x30, rowMask true true false), (0x31, rowMask false false false), (0x32, rowMask false false false),
   (0x33, rowMask false false false), (0x34, rowMask false false false), (0x35, rowMask false false false),
   (0x36, rowMask false false false), (0x37, rowMask true false false)] ++
  [(0x40, rowMask false false false), (0x41, rowMask false false false), (0x42, rowMask false false false),
   (0x43, rowMask false false false)]

/-- "A word `w` selects the operation when `w & mask = match`" (R95). -/
def rowSelects (row : Word × Word) (w : Word) : Bool := decide (w &&& row.2 = row.1)

/-- The decoder on a table row's word: one 32-bit word, bit 0 least significant. -/
def decodeTableWord (nbits w : Nat) : Option Instr :=
  match decode (BitVec.ofNat 32 (w % 2 ^ nbits)) with
  | .ok i => some i
  | .error _ => none

end Sys2Proof
end

