-- ==== Sys2Proof/Machine/Sequencer.lean ====
section
/-! DEFINITION. The sequencer at the granularity of 10_state.md R30: which statements an operation is, one statement at
a time, and running on from any position. -/

namespace Sys2Proof.Machine

/-- The fixed statement sequence of each operation (10_state.md R30, 20_memory.md R77). -/
def sequenceOf : Instr → List Stmt
  | .crc8Compute n => seqCrc8Compute n
  | .crc8Check e n => seqCrc8Check e n
  | .reset => seqReset
  | .writeBit v => seqWriteBit v
  | .readBit => seqReadBit
  | .writeByte x => seqWriteByte x
  | .readByte => seqReadByte
  | .touchByte x => seqTouchByte x
  | .touchBlock n => seqTouchBlock n
  | .devicePresent => seqDevicePresent
  | .readRom c => seqReadRom c
  | .readSerialNumber c => seqReadSerialNumber c
  | .startVoltageConversion => seqStartVoltageConversion
  | .startTemperatureConversion => seqStartTemperatureConversion
  | .readPage p => seqReadPage p
  | .writePage p => seqWritePage p
  | .hasVoltageData c => seqHasVoltageData c
  | .hasTemperatureData c => seqHasTemperatureData c
  | .readVoltage c => seqReadVoltage c
  | .readTemperature c => seqReadTemperature c
  | .copyInProgress => seqCopyInProgress
  | .readThreshold c => seqReadThreshold c
  | .getIca c => seqGetIca c
  | .getCapacity c => seqGetCapacity c
  | .selectInputSource v c => seqSelectInputSource v c
  | .enableIad => seqEnableIad
  | .disableIad => seqDisableIad
  | .enableCa => seqEnableCa
  | .disableCa => seqDisableCa
  | .enableShadowEe => seqEnableShadowEe
  | .disableShadowEe => seqDisableShadowEe
  | .writeThreshold v => seqWriteThreshold v
  | .decodeTemperature => seqDecodeTemperature
  | .decodeVoltage => seqDecodeVoltage
  | .decodeCurrent => seqDecodeCurrent
  | .decodeCapacity => seqDecodeCapacity

/-- One step of the sequencer: at most one slot (R30). At a freshly issued word it decodes; a reserved word completes
with BadParam (30_encoding.md R100). -/
def State.tick (s : State) : State :=
  match s.seq with
  | .idle => s
  | .issued =>
    match decode s.cmd with
    | .ok i => { s with seq := .running (sequenceOf i) }
    | .error _ => s.fail .badParam
  | .running [] => settle (.go, s)
  | .running (m :: ms) =>
    match doStmt m s with
    | (.go, s') => { s' with seq := .running ms }
    | r => settle r
  | .polling q c [] => { s with pollcnt := s.pollcnt + 1, seq := .running (finalRead q c) }
  | .polling q c (m :: ms) =>
    match doStmt m s with
    | (.go, s') => { s' with seq := .polling q c ms }
    | (_, s') => s'.pollAgain q c

/-- Run on from a position inside an operation to its end, or to the end of the poll it is in. -/
def State.runOn (s : State) : State :=
  match s.seq with
  | .idle => s
  | .issued => s.tick
  | .running k => runOp k s
  | .polling q c k => pollOnce q c k s

/-- `n` steps of the sequencer. -/
def State.ticks : Nat → State → State
  | 0, s => s
  | n + 1, s => State.ticks n s.tick

end Sys2Proof.Machine
end

