-- ==== Sys2Proof/Machine/HostPort.lean ====
section
/-! DEFINITION. The host's register port (10_state.md R25, R29; 70_reset_and_hazards.md R258) and the reset input
(70_reset_and_hazards.md R250 to R252). -/

namespace Sys2Proof.Machine

/-- A host write to CMD while idle: "the written word is latched, `BUSY <- 1`, `DONE <- 0`, and the core starts
executing it" (R25). -/
def State.issue (s : State) (w : Word) : State := { s with cmd := w, busy := true, done := false, seq := .issued }

/-- A host write of BUF byte `i` while idle; the byte is the low byte of the written word (log 8). -/
def State.writeBuf (s : State) (i : Nat) (v : Byte) : State := { s with buf := s.buf.setIfInBounds i v }

/-- A host write to the register map of R29. While BUSY = 1 it is ignored (R258); read-only and unlisted offsets ignore
it always. -/
def State.hostWrite (s : State) (off : BitVec 6) (v : Word) : State :=
  if s.busy then s
  else if off.toNat = 0x00 then s.issue v
  else if 0x20 ≤ off.toNat ∧ off.toNat ≤ 0x28 then s.writeBuf (off.toNat - 0x20) (v.truncate 8)
  else s

/-- The state whose RVAL, CRCREG, BUF and ROM a host read returns: this one, or while BUSY = 1 this one or any later one
of the running operation, "`any value` among the intermediate contents" (R258; 93_implementation_defined.md U14; log 9). -/
def State.readPoint (s : State) : State := if s.busy then s.ticks (Config.freeReadPoint s.reads) else s

/-- A host read of a data register: "offsets not listed read as 0" (R29). -/
def State.dataRead (s : State) (off : BitVec 6) : Word :=
  if off.toNat = 0x0C then s.rval
  else if off.toNat = 0x10 then wordOfByte s.crcreg
  else if 0x20 ≤ off.toNat ∧ off.toNat ≤ 0x28 then wordOfByte ((s.buf[off.toNat - 0x20]?).getD 0)
  else if 0x30 ≤ off.toNat ∧ off.toNat ≤ 0x37 then wordOfByte ((s.rom[off.toNat - 0x30]?).getD 0)
  else 0

/-- What a host read of the register map of R29 returns. -/
def State.hostRead (s : State) (off : BitVec 6) : Word :=
  if off.toNat = 0x00 then s.cmd
  else if off.toNat = 0x04 then s.statusWord
  else if off.toNat = 0x08 then s.resultWord
  else s.readPoint.dataRead off

/-! ### The reset input -/

/-- Whether the core pulls the line low after these pin events, starting from `driving`. -/
def drivingAfter (driving : Bool) : List PinEvent → Bool
  | [] => driving
  | .dl :: es => drivingAfter true es
  | .rl :: es => drivingAfter false es
  | .dly _ :: es => drivingAfter driving es
  | .smp _ :: es => drivingAfter driving es

/-- How many of these pin events are samples. -/
def samplesIn : List PinEvent → Nat
  | [] => 0
  | .smp _ :: es => samplesIn es + 1
  | .dl :: es => samplesIn es
  | .rl :: es => samplesIn es
  | .dly _ :: es => samplesIn es

/-- The pin events the sequencer's next statement would produce. -/
def State.pinsAhead (s : State) : List PinEvent := s.tick.pins.drop s.pins.length

/-- `rst` asserted after `n` more pin primitives (R250, R252): every register at its reset value, the line released at
once, H empty. The parameters, the environment, the turns to come and the pin history are not the block's registers and
stay (log 12). -/
def State.rstAfter (s : State) (n : Nat) : State :=
  let cut := s.pinsAhead.take n
  { State.reset with
    cfg := s.cfg
    samples := s.samples
    drawn := s.drawn + samplesIn cut
    pins := s.pins ++ cut ++ (if drivingAfter s.lineDrv cut then [.rl] else [])
    agenda := s.agenda
    readData := s.readData
    reads := s.reads }

/-- The state in which the next step runs the word `w`: issued, with no other turn before it (log 7). -/
def State.placeCommand (s : State) (w : Word) : State := { s.issue w with agenda := [] }

end Sys2Proof.Machine
end

