-- ==== Sys2Proof/Machine/Agents.lean ====
section
/-! DEFINITION. The moves of the three agents (00_scope.md R14), which `step` calls. -/

namespace Sys2Proof.Machine

/-- The core's move. Idle, it waits for a command (70_reset_and_hazards.md R250). At a freshly issued word it runs the
operation the word decodes to, and a reserved word completes with BadParam (30_encoding.md R100). Inside an operation it
runs on. -/
def coreStep (s : State) : Host.Outcome State Fault Refusal :=
  match s.busy, s.seq with
  | false, .idle => .next s
  | true, .issued =>
    match decode s.cmd with
    | .ok i => exec i s
    | .error _ => .next (s.fail .badParam)
  | true, .running _ => .next s.runOn
  | true, .polling _ _ _ => .next s.runOn
  | _, _ => .fault .incoherentSequencer

/-- One turn of the agenda. -/
def takeTurn (t : Turn) (s : State) : Host.Outcome State Fault Refusal :=
  match t with
  | .write off v => .next (s.hostWrite off v)
  | .read off => .next { s with readData := s.hostRead off, reads := s.reads + 1 }
  | .slot => .next s.tick
  | .core => coreStep s
  | .rst n => .next (s.rstAfter n)

end Sys2Proof.Machine
end

