-- ==== Sys2Proof/Machine/Step.lean ====
section
/-! DEFINITION. One step of the machine. -/

namespace Sys2Proof.Machine

/-- The first turn of the agenda, or, where none is left, the core's move (log 6). -/
def step (s : State) : Host.Outcome State Fault Refusal :=
  match s.agenda with
  | [] => coreStep s
  | t :: rest => takeTurn t { s with agenda := rest }

/-- `s` with the word `w` issued (10_state.md R25), so that the next step runs it (log 7). -/
def State.withFetchWord (s : State) (nbits w : Nat) : State := s.placeCommand (BitVec.ofNat 32 (w % 2 ^ nbits))

end Sys2Proof.Machine
end

