-- ==== Sys2Proof/Machine/Trace.lean ====
section
/-! DEFINITION. The vocabulary in which the spec states what stands on the wire: `WB(xx)`, `RB(xx)`, frames, the bytes
that the samples to come make, the pin primitives of a slot (00_scope.md R13, 30_encoding.md R98, R99). -/

namespace Sys2Proof.Machine

/-- `WB(x)`: the eight write events of one byte, bit 0 first (00_scope.md R13, 20_memory.md R67). -/
def wb (x : Byte) : List BusEvent :=
  [.w (x.getLsbD 0), .w (x.getLsbD 1), .w (x.getLsbD 2), .w (x.getLsbD 3),
   .w (x.getLsbD 4), .w (x.getLsbD 5), .w (x.getLsbD 6), .w (x.getLsbD 7)]

/-- The read events of `n` samples from the k-th sample to come on; eight of them are an `RB`. -/
def State.readEvents (s : State) (k n : Nat) : List BusEvent := (List.range n).map fun i => .r (s.level (k + i))

/-- The byte with these bits, bit 0 first. -/
def byteOfBits (b0 b1 b2 b3 b4 b5 b6 b7 : Bool) : Byte :=
  BitVec.ofNat 8 (b0.toNat + 2 * b1.toNat + 4 * b2.toNat + 8 * b3.toNat + 16 * b4.toNat + 32 * b5.toNat
    + 64 * b6.toNat + 128 * b7.toNat)

/-- The bit that the k-th sample to come is read as (41_transport.md R134). -/
def State.bitAt (s : State) (k : Nat) : Bool := bitOfLevel (s.level k)

/-- The byte that eight read slots receive from the k-th sample to come on: "first bit received is bit 0"
(41_transport.md R136). -/
def State.byteAt (s : State) (k : Nat) : Byte :=
  byteOfBits (s.bitAt k) (s.bitAt (k + 1)) (s.bitAt (k + 2)) (s.bitAt (k + 3)) (s.bitAt (k + 4)) (s.bitAt (k + 5))
    (s.bitAt (k + 6)) (s.bitAt (k + 7))

/-- The nine bytes that a page block receives from the k-th sample to come on: "the first byte received is index 0"
(20_memory.md R68). -/
def State.pageAt (s : State) (k : Nat) : Vector Byte 9 :=
  #v[s.byteAt k, s.byteAt (k + 8), s.byteAt (k + 16), s.byteAt (k + 24), s.byteAt (k + 32), s.byteAt (k + 40),
     s.byteAt (k + 48), s.byteAt (k + 56), s.byteAt (k + 64)]

/-- The eight bytes that a ROM block receives from the k-th sample to come on. -/
def State.romAt (s : State) (k : Nat) : Vector Byte 8 :=
  #v[s.byteAt k, s.byteAt (k + 8), s.byteAt (k + 16), s.byteAt (k + 24), s.byteAt (k + 32), s.byteAt (k + 40),
     s.byteAt (k + 48), s.byteAt (k + 56)]

/-! ### Touch (41_transport.md R137, R138) -/

/-- How many of the bits 0 .. i-1 of `x` are 1: the samples `TouchByte(x)` has taken before bit i (10_state.md R36). -/
def onesBelow (x : Byte) (i : Nat) : Nat := (List.range i).countP fun j => x.getLsbD j

/-- Bit i of the result of `TouchByte(x)` whose first sample is the k-th to come: 0 where the outgoing bit is 0. -/
def State.touchedBit (s : State) (k : Nat) (x : Byte) (i : Nat) : Bool :=
  x.getLsbD i && s.bitAt (k + onesBelow x i)

/-- The result of `TouchByte(x)`. -/
def State.touchResult (s : State) (k : Nat) (x : Byte) : Byte :=
  byteOfBits (s.touchedBit k x 0) (s.touchedBit k x 1) (s.touchedBit k x 2) (s.touchedBit k x 3) (s.touchedBit k x 4)
    (s.touchedBit k x 5) (s.touchedBit k x 6) (s.touchedBit k x 7)

/-- The slots of `TouchByte(x)`: "`R(s_i)` where x[i] = 1 and `W(0)` where x[i] = 0". -/
def State.touchEvents (s : State) (k : Nat) (x : Byte) : List BusEvent :=
  (List.range 8).map fun i => if x.getLsbD i then .r (s.level (k + onesBelow x i)) else .w false

/-- The results of touching these bytes in order. -/
def State.touchResults (s : State) (k : Nat) : List Byte → List Byte
  | [] => []
  | x :: xs => s.touchResult k x :: s.touchResults (k + onesBelow x 8) xs

/-- The slots of touching these bytes in order. -/
def State.touchBlockEvents (s : State) (k : Nat) : List Byte → List BusEvent
  | [] => []
  | x :: xs => s.touchEvents k x ++ s.touchBlockEvents (k + onesBelow x 8) xs

/-- The samples taken by touching these bytes. -/
def touchSamples : List Byte → Nat
  | [] => 0
  | x :: xs => onesBelow x 8 + touchSamples xs

/-! ### Frames (30_encoding.md R99) -/

/-- `RST(0) WB(CC) WB(cmd)`. -/
def functionEvents (command : Byte) : List BusEvent := .rst .low :: (wb 0xCC ++ wb command)

/-- `RST(0) WB(CC) WB(cmd) WB(page)`. -/
def pageEvents (command page : Byte) : List BusEvent := functionEvents command ++ wb page

/-- `WB(BUF[0]) … WB(BUF[8])`. -/
def bufEvents (buf : Vector Byte 9) : List BusEvent :=
  wb buf[0] ++ wb buf[1] ++ wb buf[2] ++ wb buf[3] ++ wb buf[4] ++ wb buf[5] ++ wb buf[6] ++ wb buf[7] ++ wb buf[8]

/-- A successful page read whose first reset is the k-th sample to come (42_transactions.md R156). -/
def State.pageReadEvents (s : State) (p : Byte) (k : Nat) : List BusEvent :=
  pageEvents 0xB8 p ++ pageEvents 0xBE p ++ s.readEvents (k + 2) 72

/-- A successful page write of these nine bytes (42_transactions.md R157). -/
def pageWriteEvents (p : Byte) (buf : Vector Byte 9) : List BusEvent :=
  pageEvents 0x4E p ++ bufEvents buf ++ pageEvents 0x48 p

/-- A successful ROM read whose reset is the k-th sample to come (42_transactions.md R152). -/
def State.romReadEvents (s : State) (k : Nat) : List BusEvent := .rst .low :: (wb 0x33 ++ s.readEvents (k + 1) 64)

/-! ### Slots as pin primitives (30_encoding.md R98) -/

/-- The pin primitives of one slot, in order. -/
def slotPins (cfg : Config) : BusEvent → List PinEvent
  | .rst s => [.dly cfg.tRSTG, .dl, .dly cfg.tRSTL, .rl, .dly cfg.tPDS, .smp s, .dly cfg.tRSTR]
  | .w true => [.dl, .dly cfg.tW1L, .rl, .dly cfg.tW1H]
  | .w false => [.dl, .dly cfg.tW0L, .rl, .dly cfg.tW0H]
  | .r s => [.dl, .dly cfg.tRDL, .rl, .dly cfg.tRDS, .smp s, .dly cfg.tRDR]

end Sys2Proof.Machine
end

