-- ==== Sys2Proof/Safety.lean ====
section
/-! DEFINITION. What the spec promises of every state between two steps: the invariants of 10_state.md R26, R30, R31,
R32, R35 and of the two histories. -/

namespace Sys2Proof.Machine

/-- "`BUSY` and `DONE` are never both 1" (10_state.md R26). -/
abbrev State.FlagsExclusive (s : State) : Prop := ¬(s.busy = true ∧ s.done = true)

/-- "`SEQ` is `Idle` when `BUSY = 0`; when `BUSY = 1` it is a position" (10_state.md R30). -/
abbrev State.SeqMatchesBusy (s : State) : Prop := s.busy = true ↔ s.seq ≠ .idle

/-- The PRESENCE flag that a bus event history gives: the last reset sequence's sample (10_state.md R26). -/
def presenceIn (p : Bool) : List BusEvent → Bool
  | [] => p
  | .rst s :: es => presenceIn (presenceOf s) es
  | .w _ :: es => presenceIn p es
  | .r _ :: es => presenceIn p es

/-- PRESENCE is the sticky record of the last `Reset()` since reset, 0 before the first (R26; 70_reset_and_hazards.md R251). -/
abbrev State.PresenceIsLastReset (s : State) : Prop := s.presence = presenceIn false s.bus

/-- Every sample among these pin events is taken with the line released, starting from `driving` (10_state.md R35). -/
def samplesReleased (driving : Bool) : List PinEvent → Bool
  | [] => true
  | .dl :: es => samplesReleased true es
  | .rl :: es => samplesReleased false es
  | .dly _ :: es => samplesReleased driving es
  | .smp _ :: es => !driving && samplesReleased driving es

/-- The line is released, the pin history agrees, and "the core never samples while it is itself driving the line low"
(10_state.md R32, R35). -/
abbrev State.LineReleased (s : State) : Prop :=
  s.lineDrv = false ∧ drivingAfter false s.pins = false ∧ samplesReleased false s.pins = true

/-- The samples in the pin history are the samples taken. -/
abbrev State.SamplesCounted (s : State) : Prop := samplesIn s.pins = s.drawn

/-- Whether the statements keep BITCNT within 0..8 and BYTECNT within 0..9, and index SHIFT, BUF and ROM within their
bounds, when they start with the counters at `bit` and `byte`. -/
def countsFit : Nat → Nat → List Stmt → Bool
  | _, _, [] => true
  | bit, byte, m :: ms =>
    match m with
    | .param legal => !legal || countsFit bit byte ms
    | .load _ => countsFit 0 byte ms
    | .loadBuf => decide (byte < 9) && countsFit 0 byte ms
    | .sendBit => decide (bit < 8) && countsFit (bit + 1) byte ms
    | .recvBit => decide (bit < 8) && countsFit (bit + 1) byte ms
    | .touchBit => decide (bit < 8) && countsFit (bit + 1) byte ms
    | .startBlock => countsFit bit 0 ms
    | .storeBuf => decide (byte < 9) && countsFit bit (byte + 1) ms
    | .storeRom => decide (byte < 8) && countsFit bit (byte + 1) ms
    | .nextByte => decide (byte < 9) && countsFit bit (byte + 1) ms
    | .pauseIad _ => true
    | .pollLoop _ _ => true
    | .ret _ => true
    | .reset => countsFit bit byte ms
    | .writeBit _ => countsFit bit byte ms
    | .crcInit => countsFit bit byte ms
    | .crcBit .buf k i => decide (k < 9) && decide (i < 8) && countsFit bit byte ms
    | .crcBit .rom k i => decide (k < 8) && decide (i < 8) && countsFit bit byte ms
    | .checkBuf => countsFit bit byte ms
    | .checkRom => countsFit bit byte ms
    | .failIfBusy _ => countsFit bit byte ms
    | .setStatus _ _ => countsFit bit byte ms
    | .setThreshold _ => countsFit bit byte ms

/-- The statements the sequencer still has to run where it stands. -/
def Seq.rest : Seq → List Stmt
  | .idle => []
  | .issued => []
  | .running k => k
  | .polling _ _ k => k

/-- BITCNT is 0..8 and BYTECNT 0..9 (10_state.md R31), and what is left of the operation keeps them there. -/
abbrev State.CountersInRange (s : State) : Prop :=
  s.bitcnt.toNat ≤ 8 ∧ s.bytecnt.toNat ≤ 9 ∧ countsFit s.bitcnt.toNat s.bytecnt.toNat s.seq.rest = true

/-- All of the above: what holds between any two steps of a run from reset. -/
abbrev State.Inv (s : State) : Prop :=
  s.FlagsExclusive ∧ s.SeqMatchesBusy ∧ s.PresenceIsLastReset ∧ s.LineReleased ∧ s.SamplesCounted ∧ s.CountersInRange

end Sys2Proof.Machine
end

