-- ==== Sys2Proof/Certificates/Slice0/Obligations.lean ====
section
/-! DEFINITION. The statements for the provers. Each docstring names the rule of spec/ it formalises. The vocabulary
comes first: it says what an operation leaves behind, with SHIFT, BITCNT and BYTECNT taken from the state after it,
because no rule fixes what these working registers hold between operations (10_state.md R31). -/

open Sys2Proof Sys2Proof.Machine

namespace Sys2Proof.Claims

/-! ### What a completed operation leaves -/

/-- `s` after an operation that ended with code `c` and value `v`, with the slots `es` on the wire and `n` samples
taken, and everything not named unchanged; SHIFT, BITCNT and BYTECNT are `t`'s. -/
def completed (s t : State) (c : ResultCode) (v : Word) (es : List BusEvent) (n : Nat) : State := { s with
  result := c, rval := v, busy := false, done := true, seq := .idle, lineDrv := false
  drawn := s.drawn + n, bus := s.bus ++ es, pins := s.pins ++ es.flatMap (slotPins s.cfg)
  shift := t.shift, bitcnt := t.bitcnt, bytecnt := t.bytecnt }

/-- `s` after `fail BadParam` before any other action: only the completion registers change. -/
def badParam (s : State) : State :=
  { s with result := .badParam, rval := 0, busy := false, done := true, seq := .idle }

/-- `s` after an operation whose first slot was a `Reset()` that sampled high: that slot, PRESENCE, the completion, and
nothing else. -/
def absent (s : State) : State := { s with
  result := .deviceNotFound, rval := 0, busy := false, done := true, seq := .idle, lineDrv := false, presence := false
  drawn := s.drawn + 1, bus := s.bus ++ [.rst .high]
  pins := s.pins ++ [.dly s.cfg.tRSTG, .dl, .dly s.cfg.tRSTL, .rl, .dly s.cfg.tPDS, .smp .high, .dly s.cfg.tRSTR] }

/-- The operation aborts at the first, or at the second, `Reset()` of a read of page `p`. -/
def abortsInPageRead (i : Instr) (p : Byte) (s : State) : Prop :=
  (s.level 0 = .high → exec i s = .next (absent s)) ∧
  (s.level 0 = .low → s.level 1 = .high → ∃ t, exec i s = .next t ∧
    t = { completed s t .deviceNotFound 0 (pageEvents 0xB8 p ++ [.rst .high]) 2 with presence := false })

/-- Both resets of the page read that starts at the k-th sample to come detect presence. -/
abbrev resetsLow (s : State) (k : Nat) : Prop := s.level k = .low ∧ s.level (k + 1) = .low

/-! ### Pages -/

/-- The CRC check of a page, where the operation makes one, passes. -/
def crcOk (c : Bool) (page : Vector Byte 9) : Bool := !c || decide (crc8 (page.toList.take 8) = page[8])

/-- CRCREG after the CRC check of a page, where the operation makes one. -/
def crcregAfter (c : Bool) (old : Byte) (page : Vector Byte 9) : Byte :=
  if c then crc8 (page.toList.take 8) else old

/-- The result of a checked page read. -/
def readCode (c : Bool) (page : Vector Byte 9) : ResultCode := if crcOk c page then .ok else .crcFail

/-- The page with bit `b` of byte 0 made `v`. -/
def withBit (page : Vector Byte 9) (b : Nat) (v : Bool) : Vector Byte 9 :=
  page.set 0 (if v then page[0] ||| (1#8 <<< b) else page[0] &&& ~~~(1#8 <<< b))

/-- A 16-bit little-endian field as two's complement. -/
def signed16 (lsb msb : Byte) : Int :=
  if msb.toNat * 256 + lsb.toNat < 32768 then (msb.toNat * 256 + lsb.toNat : Int)
  else (msb.toNat * 256 + lsb.toNat : Int) - 65536

/-- The raw current that 44_decode.md R203 gives. -/
def rawCurrent (page : Vector Byte 9) : Int :=
  if 1 < page[6].toNat % 4 then -(((65535 - (page[6].toNat * 256 + page[5].toNat)) % 1024 : Nat) : Int)
  else signed16 page[5] page[6]

/-- The raw value a blocking read decodes: voltage unsigned, temperature shifted arithmetically. -/
def rawValue (q : Poll) (page : Vector Byte 9) : Int :=
  match q with
  | .voltage => (page[4].toNat * 256 + page[3].toNat : Int)
  | .temperature => signed16 page[1] page[2] >>> 3

/-! ### Kinds of operation -/

/-- The bit and the value of an enable or disable operation, and its command word (43_flags.md R182 to R187). -/
def toggles : List (Instr × Nat × Bool × Word) :=
  [(.enableIad, 0, true, 0x31), (.disableIad, 0, false, 0x32), (.enableCa, 1, true, 0x33), (.disableCa, 1, false, 0x34),
   (.enableShadowEe, 2, true, 0x35), (.disableShadowEe, 2, false, 0x36)]

/-- The operations with legal operands that begin with a CRC-validated page read (42_transactions.md R158). -/
def checkedPageReads : List Instr :=
  [.hasVoltageData true, .hasTemperatureData true, .readThreshold true, .getIca true, .getCapacity true,
   .selectInputSource 0 true, .selectInputSource 1 true]

/-- The blocking read of a quantity, its readiness test and its conversion command. -/
def blockingRead (q : Poll) (c : Bool) : Instr :=
  match q with
  | .voltage => .readVoltage c
  | .temperature => .readTemperature c

def readinessTest (q : Poll) (c : Bool) : Instr :=
  match q with
  | .voltage => .hasVoltageData c
  | .temperature => .hasTemperatureData c

def conversion (q : Poll) : Instr :=
  match q with
  | .voltage => .startVoltageConversion
  | .temperature => .startTemperatureConversion

/-- The operation codes of the conversion, the readiness test and the blocking read, the wire command, the busy bit. -/
def conversionOp (q : Poll) : Word := match q with | .voltage => 0x23 | .temperature => 0x24

def readinessOp (q : Poll) : Word := match q with | .voltage => 0x27 | .temperature => 0x28

def blockingOp (q : Poll) : Word := match q with | .voltage => 0x29 | .temperature => 0x2A

def wireCommand (q : Poll) : Byte := match q with | .voltage => 0xB4 | .temperature => 0x44

def busyBit (q : Poll) : Nat := match q with | .voltage => 6 | .temperature => 4

/-- The operations of the Transaction Layer, codes 0x2_ and 0x3_ (30_encoding.md R94). -/
def isTransaction (i : Instr) : Bool :=
  (opField (encode i)).toNat / 16 == 2 || (opField (encode i)).toNat / 16 == 3

/-- The operations that write BUF (10_state.md R21). -/
def writesBuf : Instr → Bool
  | .touchBlock _ => true
  | .readPage _ => true
  | .hasVoltageData _ => true
  | .hasTemperatureData _ => true
  | .readVoltage _ => true
  | .readTemperature _ => true
  | .copyInProgress => true
  | .readThreshold _ => true
  | .getIca _ => true
  | .getCapacity _ => true
  | .selectInputSource _ _ => true
  | .enableIad => true
  | .disableIad => true
  | .enableCa => true
  | .disableCa => true
  | .enableShadowEe => true
  | .disableShadowEe => true
  | .writeThreshold _ => true
  | _ => false

/-- The operations that write ROM (10_state.md R22). -/
def writesRom : Instr → Bool
  | .readRom _ => true
  | .readSerialNumber _ => true
  | _ => false

/-- The operations that evaluate a CRC (10_state.md R24, 60_exceptions.md R220). -/
def evaluatesCrc : Instr → Bool
  | .crc8Compute _ => true
  | .crc8Check _ _ => true
  | i => isTransaction i && crcField (encode i)

/-- The operations that run a `Reset()` (10_state.md R26). -/
def runsReset (i : Instr) : Bool := isTransaction i || decide (i = .reset)

/-- The operations that count polls (60_exceptions.md R230). -/
def countsPolls : Instr → Bool
  | .readVoltage _ => true
  | .readTemperature _ => true
  | _ => false

/-- The result codes of an operation with legal operands (30_encoding.md R96, column "codes"). -/
def codes : Instr → List ResultCode
  | .reset => [.ok, .deviceNotFound]
  | .devicePresent => [.ok, .deviceNotFound]
  | .readRom _ => [.ok, .deviceNotFound, .crcFail]
  | .readSerialNumber _ => [.ok, .deviceNotFound, .crcFail]
  | .startVoltageConversion => [.ok, .deviceNotFound]
  | .startTemperatureConversion => [.ok, .deviceNotFound]
  | .readPage _ => [.ok, .deviceNotFound]
  | .writePage _ => [.ok, .deviceNotFound]
  | .hasVoltageData _ => [.ok, .error, .deviceNotFound, .crcFail]
  | .hasTemperatureData _ => [.ok, .error, .deviceNotFound, .crcFail]
  | .readVoltage _ => [.ok, .deviceNotFound, .crcFail, .timeout]
  | .readTemperature _ => [.ok, .deviceNotFound, .crcFail, .timeout]
  | .copyInProgress => [.ok, .deviceNotFound]
  | .readThreshold _ => [.ok, .deviceNotFound, .crcFail]
  | .getIca _ => [.ok, .deviceNotFound, .crcFail]
  | .getCapacity _ => [.ok, .deviceNotFound, .crcFail]
  | .selectInputSource _ _ => [.ok, .deviceNotFound, .crcFail]
  | .enableIad => [.ok, .deviceNotFound]
  | .disableIad => [.ok, .deviceNotFound]
  | .enableCa => [.ok, .deviceNotFound]
  | .disableCa => [.ok, .deviceNotFound]
  | .enableShadowEe => [.ok, .deviceNotFound]
  | .disableShadowEe => [.ok, .deviceNotFound]
  | .writeThreshold _ => [.ok, .deviceNotFound]
  | _ => [.ok]

/-- Every write slot comes after a reset that detected presence, with no failed reset between (42_transactions.md
R168 (c)); `present` says whether one has come before. -/
def writesAfterPresence (present : Bool) : List BusEvent → Bool
  | [] => true
  | .rst .low :: es => writesAfterPresence true es
  | .rst .high :: es => writesAfterPresence false es
  | .w _ :: es => present && writesAfterPresence present es
  | .r _ :: es => writesAfterPresence present es

/-! ### Inside an operation -/

/-- The states that the operation `i` reaches from `s`: what `exec` answers, and, with `i` issued in `s`, every position
that the sequencer reaches statement by statement, in the middle of a slot sequence, between two polls of a blocking
read or at its end, and what running on from such a position, as a step does, answers. -/
def reaches (i : Instr) (s t : State) : Prop :=
  exec i s = .next t ∨
    (s.seq = .issued ∧ decode s.cmd = .ok i ∧ ∃ n, t = State.ticks n s ∨ t = (State.ticks n s).runOn)

/-- The bits of a byte sequence in the order the CRC takes them: bytes in order, least significant bit first. -/
def inputBits (data : List Byte) : List Bool := data.flatMap fun x => (List.range 8).map fun i => x.getLsbD i

/-- The CRC register after these input bits: a shift right at every bit and, where the register's bit 0 differs from the
input bit, an XOR with 0x8C after the shift. -/
def crcOfBits (bits : List Bool) : Byte :=
  bits.foldl (fun (c : Byte) (d : Bool) => if c.getLsbD 0 = d then c >>> 1 else (c >>> 1) ^^^ 0x8C#8) 0

/-! ### The polls of a blocking read -/

/-- The readiness poll that starts at the k-th sample to come answers Ok. -/
def pollReady (q : Poll) (c : Bool) (s : State) (k : Nat) : Bool :=
  decide (s.level k = .low) && decide (s.level (k + 1) = .low) && crcOk c (s.pageAt (k + 2)) &&
    !(s.pageAt (k + 2))[0].getLsbD (busyBit q)

/-- How many samples that poll takes: it ends at a failed reset, else it reads the page. -/
def pollSamples (s : State) (k : Nat) : Nat :=
  if s.level k = .high then 1 else if s.level (k + 1) = .high then 2 else 74

/-- The sample at which poll number `n` starts; sample 0 is the reset of the start command. -/
def pollStart (s : State) : Nat → Nat
  | 0 => 1
  | n + 1 => pollStart s n + pollSamples s (pollStart s n)

/-- The slots of that poll. -/
def pollEvents (s : State) (k : Nat) : List BusEvent :=
  if s.level k = .high then [.rst .high]
  else if s.level (k + 1) = .high then pageEvents 0xB8 0 ++ [.rst .high]
  else s.pageReadEvents 0 k

/-- The slots of the start command of a blocking read and of its first `n` polls. -/
def pollsEvents (q : Poll) (s : State) : Nat → List BusEvent
  | 0 => functionEvents (wireCommand q)
  | n + 1 => pollsEvents q s n ++ pollEvents s (pollStart s n)

/-- BUF after the first `n` polls: what the last of them that read a page left there. -/
def pollsBuf (s : State) : Nat → Vector Byte 9
  | 0 => s.buf
  | n + 1 => if resetsLow s (pollStart s n) then s.pageAt (pollStart s n + 2) else pollsBuf s n

/-- CRCREG after the first `n` polls: the CRC of the last page read, where the polls check it. -/
def pollsCrcreg (c : Bool) (s : State) : Nat → Byte
  | 0 => s.crcreg
  | n + 1 =>
    if resetsLow s (pollStart s n) then crcregAfter c (pollsCrcreg c s n) (s.pageAt (pollStart s n + 2))
    else pollsCrcreg c s n

/-- An issued blocking read that no other turn precedes, with presence at its start command. -/
def blockingReadIssued (q : Poll) (c : Bool) (s : State) : Prop :=
  s.busy = true ∧ s.seq = .issued ∧ s.agenda = [] ∧ s.cmd = encode (blockingRead q c) ∧ s.level 0 = .low

end Sys2Proof.Claims

open Sys2Proof.Claims

/-! ## Reset, the host port, decoding -/

/-- 10_state.md R37: every register of the table at its reset value. -/
def Obligations.ResetValuesAsTabled : Prop :=
  State.reset.buf = #v[0, 0, 0, 0, 0, 0, 0, 0, 0] ∧ State.reset.rom = #v[0, 0, 0, 0, 0, 0, 0, 0] ∧
  State.reset.rval = 0 ∧ State.reset.crcreg = 0 ∧ State.reset.cmd = 0 ∧ State.reset.result = .ok ∧
  State.reset.busy = false ∧ State.reset.done = false ∧ State.reset.presence = false ∧ State.reset.lineDrv = false ∧
  State.reset.seq = .idle ∧ State.reset.shift = 0 ∧ State.reset.bitcnt = 0 ∧ State.reset.bytecnt = 0 ∧
  State.reset.pollcnt = 0

/-- The invariant of Safety.lean holds in the reset state. It rests on the reset values of 10_state.md R32 and R37, which
are the spec's own choice (decision D17), and on the empty histories and the zero of `drawn`, which are the model's choice
(log 5, log 2, log 1). -/
def Obligations.ResetStateMeetsInvariant : Prop := State.reset.Inv

/-- 70_reset_and_hazards.md R250, R251, R252: a turn in which `rst` is asserted, at whatever point of whatever
operation, leaves every register at its reset value, H empty and the line released. What it leaves in the model's own
fields is the model's choice (log 12). -/
def Obligations.RstRestoresResetState : Prop :=
  ∀ (s : State) (n : Nat) (rest : List Turn), s.agenda = .rst n :: rest →
    ∃ t, step s = .next t ∧
      t = { State.reset with
        cfg := s.cfg, samples := s.samples, drawn := t.drawn, pins := t.pins, agenda := rest, readData := s.readData
        reads := s.reads } ∧
      (s.LineReleased → t.LineReleased)

/-- 10_state.md R25: a host write of CMD while idle latches the word, sets BUSY, clears DONE and starts the operation;
nothing else changes. -/
def Obligations.HostWriteToCmdIssues : Prop :=
  ∀ (s : State) (w : Word) (rest : List Turn), s.busy = false → s.agenda = .write 0x00 w :: rest →
    step s = .next { s with cmd := w, busy := true, done := false, seq := .issued, agenda := rest }

/-- 70_reset_and_hazards.md R258, 10_state.md R21, R29: while BUSY = 1 every host write is ignored; while BUSY = 0 a
write at 0x20 + i writes BUF[i], and a write at any other offset but 0x00 is ignored. That the byte is the low byte of
the written word is the model's choice (log 8). -/
def Obligations.HostWritesReachOnlyCmdAndBuf : Prop :=
  ∀ (s : State) (off : BitVec 6) (v : Word) (rest : List Turn), s.agenda = .write off v :: rest →
    (s.busy = true → step s = .next { s with agenda := rest }) ∧
    (s.busy = false → ∀ i : Fin 9, off.toNat = 0x20 + i.val →
      step s = .next { s with agenda := rest, buf := s.buf.set i (v.extractLsb' 0 8) }) ∧
    (s.busy = false → off ≠ 0x00 → (off.toNat < 0x20 ∨ 0x28 < off.toNat) → step s = .next { s with agenda := rest })

/-- 10_state.md R26, R27, R29, 70_reset_and_hazards.md R258: a host read changes nothing but the model's own read fields
(log 8), and delivers the register that the map lists at that offset, STATUS and RESULT laid out as their rules say, and
0 at an unlisted offset. While BUSY = 1 a read of RVAL, CRCREG, BUF or ROM delivers the contents after some number n of
further statements of the running operation, which nothing fixes (log 9); while BUSY = 0, n is 0. -/
def Obligations.HostReadsFollowRegisterMap : Prop :=
  ∀ (s : State) (off : BitVec 6) (rest : List Turn), s.agenda = .read off :: rest →
    let u := { s with agenda := rest }
    ∃ (v : Word) (n : Nat), step s = .next { u with readData := v, reads := s.reads + 1 } ∧
      (s.busy = false → n = 0) ∧
      (off = 0x00 → v = s.cmd) ∧
      (off = 0x04 → v.toNat = s.busy.toNat + 2 * s.done.toNat + 4 * s.presence.toNat) ∧
      (off = 0x08 → v = match s.result with
        | .ok => 0 | .deviceNotFound => 1 | .crcFail => 2 | .badParam => 3 | .error => 4 | .timeout => 5) ∧
      (off = 0x0C → v = (u.ticks n).rval) ∧
      (off = 0x10 → v.toNat = (u.ticks n).crcreg.toNat) ∧
      (∀ i : Fin 9, off.toNat = 0x20 + i.val → v.toNat = (u.ticks n).buf[i].toNat) ∧
      (∀ i : Fin 8, off.toNat = 0x30 + i.val → v.toNat = (u.ticks n).rom[i].toNat) ∧
      (off.toNat ∉ [0x00, 0x04, 0x08, 0x0C, 0x10] → (off.toNat < 0x20 ∨ 0x28 < off.toNat) →
        (off.toNat < 0x30 ∨ 0x37 < off.toNat) → v = 0)

/-- 95_test_vectors.md V-E1 to V-E18, all nineteen words of the table: words written out from the encoding decode to the
operations they stand for. -/
def Obligations.SpecWordsDecodeAsListed : Prop :=
  decode 0x00000010#32 = .ok .reset ∧ decode 0x00000111#32 = .ok (.writeBit 1) ∧
  decode 0x0000CC13#32 = .ok (.writeByte 0xCC) ∧ decode 0x0000A515#32 = .ok (.touchByte 0xA5) ∧
  decode 0x00200016#32 = .ok (.touchBlock 2) ∧ decode 0x00800001#32 = .ok (.crc8Compute 8) ∧
  decode 0x0070A202#32 = .ok (.crc8Check 0xA2 7) ∧ decode 0x00010021#32 = .ok (.readRom true) ∧
  decode 0x00000325#32 = .ok (.readPage 3) ∧ decode 0x00000326#32 = .ok (.writePage 3) ∧
  decode 0x0001002A#32 = .ok (.readTemperature true) ∧ decode 0x00000029#32 = .ok (.readVoltage false) ∧
  decode 0x00010130#32 = .ok (.selectInputSource 1 true) ∧ decode 0x00000030#32 = .ok (.selectInputSource 0 false) ∧
  decode 0x00000237#32 = .ok (.writeThreshold 2) ∧ decode 0x0001002C#32 = .ok (.readThreshold true) ∧
  decode 0x0001002E#32 = .ok (.getCapacity true) ∧ decode 0x00000031#32 = .ok .enableIad ∧
  decode 0x00000042#32 = .ok .decodeCurrent

/-- 10_state.md R25, R30: with an operation issued and no other turn before it, a step is `exec` of the operation its
command word decodes to; the step adds nothing around it. That one step runs the whole operation is the model's choice
(log 6). -/
def Obligations.StepRunsDecodedOperation : Prop :=
  ∀ (s : State) (i : Instr), s.busy = true → s.seq = .issued → s.agenda = [] → decode s.cmd = .ok i →
    step s = exec i s

/-- 30_encoding.md R100: issuing a reserved word completes at once with BadParam and RVAL 0, and changes nothing else. -/
def Obligations.ReservedWordCompletesWithBadParam : Prop :=
  ∀ (s : State) (e : DecodeError), s.busy = true → s.seq = .issued → s.agenda = [] → decode s.cmd = .error e →
    step s = .next (badParam s)

/-- 30_encoding.md R100: the decoder refuses a word exactly when a condition of the rule holds: an OP outside the 36
codes, a reserved bit, an unused field that is not 0, LEN above 9 where LEN is used, ARG above 1 in write_bit. -/
def Obligations.ReservedWordsAreThoseOfTheRule : Prop :=
  ∀ w : Word,
    let op := (w.extractLsb' 0 8).toNat
    let usesLen := [0x01, 0x02, 0x16].contains op
    let usesArg := [0x02, 0x11, 0x13, 0x15, 0x25, 0x26, 0x30, 0x37].contains op
    let usesCrc := [0x21, 0x22, 0x27, 0x28, 0x29, 0x2A, 0x2C, 0x2D, 0x2E, 0x30].contains op
    (∃ e, decode w = .error e) ↔
      (¬(op ∈ [0x01, 0x02] ∨ (0x10 ≤ op ∧ op ≤ 0x16) ∨ (0x20 ≤ op ∧ op ≤ 0x2E) ∨ (0x30 ≤ op ∧ op ≤ 0x37) ∨
        (0x40 ≤ op ∧ op ≤ 0x43))) ∨
      w.extractLsb' 17 3 ≠ 0 ∨ w.extractLsb' 24 8 ≠ 0 ∨
      (usesArg = false ∧ w.extractLsb' 8 8 ≠ 0) ∨ (usesCrc = false ∧ w.getLsbD 16 = true) ∨
      (usesLen = false ∧ w.extractLsb' 20 4 ≠ 0) ∨
      (usesLen = true ∧ 9 < (w.extractLsb' 20 4).toNat) ∨ (op = 0x11 ∧ 1 < (w.extractLsb' 8 8).toNat)

/-- 30_encoding.md R90, R96: decoding the word of a well-formed operation, with every operand at every legal value, gives
the operation back. -/
def Obligations.DecodeOfEncodeIsIdentity : Prop :=
  ∀ i : Instr, i.wellFormed = true → decode (encode i) = .ok i

/-- 30_encoding.md R90, R96: a word that decodes is the encoding of what it decodes to, so no bit of a command word is
dropped and no operation has two words. -/
def Obligations.EncodeOfDecodeIsIdentity : Prop :=
  ∀ (w : Word) (i : Instr), decode w = .ok i → encode i = w

/-- 30_encoding.md R95: a word that decodes is selected by exactly one row of the table, the row whose match is the OP of
the decoded operation; and at most one row selects any word. -/
def Obligations.ExactlyOneRowSelectsADecodedWord : Prop :=
  (∀ w : Word, ∀ a ∈ opcodeRows, ∀ b ∈ opcodeRows, rowSelects a w = true → rowSelects b w = true → a = b) ∧
  (∀ (w : Word) (i : Instr), decode w = .ok i →
    ∃ row ∈ opcodeRows, rowSelects row w = true ∧ row.1 = (opField (encode i)).zeroExtend 32) ∧
  (∀ w : Word, (∀ row ∈ opcodeRows, rowSelects row w = false) → ∃ e, decode w = .error e)

/-! ## CRC8 Engine -/

/-- 40_crc8.md R122: word, result, and BadParam for a length above 9. -/
def Obligations.Crc8ComputeResult : Prop :=
  ∀ (n : BitVec 4) (s : State),
    (encode (.crc8Compute n)).toNat = 0x01 + 2 ^ 20 * n.toNat ∧
    (n.toNat ≤ 9 → exec (.crc8Compute n) s = .next { s with
      crcreg := crc8 (s.buf.toList.take n.toNat), rval := (crc8 (s.buf.toList.take n.toNat)).zeroExtend 32
      result := .ok, busy := false, done := true, seq := .idle }) ∧
    (9 < n.toNat → exec (.crc8Compute n) s = .next (badParam s))

/-- 40_crc8.md R123: word, result (Ok in the matching and in the other case, CRCREG the computed CRC), and BadParam for a
length above 9. -/
def Obligations.Crc8CheckResult : Prop :=
  ∀ (e : Byte) (n : BitVec 4) (s : State),
    (encode (.crc8Check e n)).toNat = 0x02 + 2 ^ 8 * e.toNat + 2 ^ 20 * n.toNat ∧
    (n.toNat ≤ 9 → exec (.crc8Check e n) s = .next { s with
      crcreg := crc8 (s.buf.toList.take n.toNat), rval := if crc8 (s.buf.toList.take n.toNat) = e then 1 else 0
      result := .ok, busy := false, done := true, seq := .idle }) ∧
    (9 < n.toNat → exec (.crc8Check e n) s = .next (badParam s))

/-- 40_crc8.md R120, R121: `crc8` is the bit-serial algorithm: from 0, each byte in order and least significant bit first,
a shift right at every bit and, where the register's bit 0 differs from the input bit, an XOR with 0x8C after the shift. -/
def Obligations.Crc8IsTheBitSerialAlgorithm : Prop :=
  ∀ data : List Byte, crc8 data = crcOfBits (inputBits data)

/-- 10_state.md R24, 40_crc8.md R121: CRCREG holds the running CRC throughout an evaluation: in an issued operation that
evaluates a CRC there is a point from which on, tick by tick, it holds 0 and then the CRC of one input bit more, up to
the whole sequence: BUF[0..n-1] in `crc8_compute` and `crc8_check`, bytes 0 to 6 of a received ROM, bytes 0 to 7 of the
page that a CRC-validated operation receives first; and so from the start of any poll of a validated blocking read, the
first or a later one, and from the start of its final page read, where both resets detect presence. That an input bit is
one tick is the model's choice (log 19). -/
def Obligations.CrcregHoldsRunningCrc : Prop :=
  let runs (s : State) (data : List Byte) : Prop :=
    ∃ m, ∀ j ≤ 8 * data.length, (State.ticks (m + j) s).crcreg = crcOfBits ((inputBits data).take j)
  (∀ (i : Instr) (s : State), s.seq = .issued → decode s.cmd = .ok i →
    (∀ n : BitVec 4, (i = .crc8Compute n ∨ ∃ e, i = .crc8Check e n) → runs s (s.buf.toList.take n.toNat)) ∧
    ((i = .readRom true ∨ i = .readSerialNumber true) → s.level 0 = .low → runs s ((s.romAt 1).toList.take 7)) ∧
    (i ∈ checkedPageReads → resetsLow s 0 → runs s ((s.pageAt 2).toList.take 8)) ∧
    ((i = .readVoltage true ∨ i = .readTemperature true) → s.level 0 = .low → resetsLow s 1 →
      runs s ((s.pageAt 3).toList.take 8))) ∧
  (∀ (q : Poll) (s : State), (s.seq = .polling q true (hasData q true) ∨ s.seq = .running (finalRead q true)) →
    resetsLow s 0 → runs s ((s.pageAt 2).toList.take 8))

/-- 40_crc8.md R125 (b), (d): an all-zero sequence of any length, the empty one included, has CRC 0, and so has any
sequence followed by its own CRC. -/
def Obligations.CrcOfZerosAndOfSelfCheckedDataIsZero : Prop :=
  (∀ n : Nat, crc8 (List.replicate n 0) = 0) ∧ (∀ data : List Byte, crc8 (data ++ [crc8 data]) = 0)

/-- 40_crc8.md R125 (e): `crc8` is linear over sequences of equal length. -/
def Obligations.CrcIsLinear : Prop :=
  ∀ xs ys : List Byte, xs.length = ys.length →
    crc8 (List.zipWith (fun x y => x ^^^ y) xs ys) = crc8 xs ^^^ crc8 ys

/-- 40_crc8.md R125 (f): flipping any single bit of a sequence always changes its CRC. -/
def Obligations.SingleBitFlipChangesCrc : Prop :=
  ∀ (xs ys : List Byte) (x : Byte) (j : Nat), j < 8 →
    crc8 (xs ++ [x ^^^ (1#8 <<< j)] ++ ys) ≠ crc8 (xs ++ [x] ++ ys)

/-! ## Bus Transport -/

/-- 41_transport.md R131, 42_transactions.md R151: `reset` and `device_present`: words, the slot with its pin primitives
in order, PRESENCE, and the result in both cases. -/
def Obligations.ResetAndDevicePresentResult : Prop :=
  encode .reset = 0x10 ∧ encode .devicePresent = 0x20 ∧
  ∀ s : State,
    (s.level 0 = .low → exec .reset s = .next { s with
      presence := true, rval := 1, result := .ok, busy := false, done := true, seq := .idle, lineDrv := false
      drawn := s.drawn + 1, bus := s.bus ++ [.rst .low]
      pins := s.pins ++
        [.dly s.cfg.tRSTG, .dl, .dly s.cfg.tRSTL, .rl, .dly s.cfg.tPDS, .smp .low, .dly s.cfg.tRSTR] }) ∧
    (s.level 0 = .high → exec .reset s = .next (absent s)) ∧
    exec .devicePresent s = exec .reset s

/-- 41_transport.md R132: the words, the two slots with their pin primitives, and BadParam for a value above 1. -/
def Obligations.WriteBitResult : Prop :=
  ∀ (v : Byte) (s : State),
    (encode (.writeBit v)).toNat = 0x11 + 2 ^ 8 * v.toNat ∧
    (v = 1 → exec (.writeBit v) s = .next { s with
      rval := 0, result := .ok, busy := false, done := true, seq := .idle, lineDrv := false, bus := s.bus ++ [.w true]
      pins := s.pins ++ [.dl, .dly s.cfg.tW1L, .rl, .dly s.cfg.tW1H] }) ∧
    (v = 0 → exec (.writeBit v) s = .next { s with
      rval := 0, result := .ok, busy := false, done := true, seq := .idle, lineDrv := false, bus := s.bus ++ [.w false]
      pins := s.pins ++ [.dl, .dly s.cfg.tW0L, .rl, .dly s.cfg.tW0H] }) ∧
    (1 < v.toNat → exec (.writeBit v) s = .next (badParam s))

/-- 41_transport.md R134: the word, the slot with its pin primitives, and the bit that the sample is read as. -/
def Obligations.ReadBitResult : Prop :=
  encode .readBit = 0x12 ∧
  ∀ s : State, ∃ t, exec .readBit s = .next t ∧
    t = { completed s t .ok (if s.level 0 = .high then 1 else 0) [.r (s.level 0)] 1 with
      pins := s.pins ++ [.dl, .dly s.cfg.tRDL, .rl, .dly s.cfg.tRDS, .smp (s.level 0), .dly s.cfg.tRDR] }

/-- 41_transport.md R135: the word and eight write slots, bit 0 first. -/
def Obligations.WriteByteResult : Prop :=
  ∀ (x : Byte) (s : State),
    (encode (.writeByte x)).toNat = 0x13 + 2 ^ 8 * x.toNat ∧
    ∃ t, exec (.writeByte x) s = .next t ∧
      t = completed s t .ok 0 ((List.range 8).map fun i => .w (x.getLsbD i)) 0

/-- 41_transport.md R136: the word, eight read slots, and the byte whose bit i is the i-th sample. -/
def Obligations.ReadByteResult : Prop :=
  encode .readByte = 0x14 ∧
  ∀ s : State, ∃ (t : State) (v : Byte), exec .readByte s = .next t ∧
    t = completed s t .ok (v.zeroExtend 32) ((List.range 8).map fun i => .r (s.level i)) 8 ∧
    ∀ i, i < 8 → v.getLsbD i = decide (s.level i = .high)

/-- 41_transport.md R137: the word; for each bit, bit 0 first, a read slot where the outgoing bit is 1 and a write-0 slot
where it is 0; as many samples as the byte has 1 bits; a result bit is the sample of its read slot, and 0 where the
outgoing bit is 0. -/
def Obligations.TouchByteResult : Prop :=
  ∀ (x : Byte) (s : State),
    (encode (.touchByte x)).toNat = 0x15 + 2 ^ 8 * x.toNat ∧
    ∃ (t : State) (v : Byte), exec (.touchByte x) s = .next t ∧
      t = completed s t .ok (v.zeroExtend 32)
        ((List.range 8).map fun i => if x.getLsbD i then .r (s.level (onesBelow x i)) else .w false) (onesBelow x 8) ∧
      ∀ i, i < 8 → v.getLsbD i = (x.getLsbD i && decide (s.level (onesBelow x i) = .high))

/-- 41_transport.md R137, the consequences: a result never has a bit that the outgoing byte lacks; touching 0xFF is
reading a byte; touching 0x00 is writing 0x00; with every sample high the result is the outgoing byte. -/
def Obligations.TouchByteConsequences : Prop :=
  (∀ (x : Byte) (s t : State), exec (.touchByte x) s = .next t → t.rval &&& ~~~(x.zeroExtend 32) = 0) ∧
  (∀ s : State, exec (.touchByte 0xFF) s = exec .readByte s) ∧
  (∀ s : State, exec (.touchByte 0x00) s = exec (.writeByte 0x00) s) ∧
  (∀ (x : Byte) (s t : State), (∀ k < 8, s.level k = .high) → exec (.touchByte x) s = .next t →
    t.rval = x.zeroExtend 32)

/-- 41_transport.md R138: the word; BUF[0..n-1] touched in place and in order, the bytes from n on untouched; BadParam
for a length above 9. -/
def Obligations.TouchBlockResult : Prop :=
  ∀ (n : BitVec 4) (s : State),
    (encode (.touchBlock n)).toNat = 0x16 + 2 ^ 20 * n.toNat ∧
    (n.toNat ≤ 9 → ∃ t, exec (.touchBlock n) s = .next t ∧
      t = { completed s t .ok 0 (s.touchBlockEvents 0 (s.buf.toList.take n.toNat))
        (touchSamples (s.buf.toList.take n.toNat)) with buf := t.buf, lineDrv := t.lineDrv } ∧
      t.buf.toList = s.touchResults 0 (s.buf.toList.take n.toNat) ++ s.buf.toList.drop n.toNat ∧
      (s.lineDrv = false → t.lineDrv = false)) ∧
    (9 < n.toNat → exec (.touchBlock n) s = .next (badParam s))

/-! ## Transaction Layer -/

/-- 42_transactions.md R152, R153: `read_rom` and `read_serial_number`: words, DeviceNotFound, and with presence the
frame, the eight bytes in ROM, and the CRC check where `crc_mode` asks for it. -/
def Obligations.RomReadResult : Prop :=
  ∀ (c : Bool) (s : State),
    (encode (.readRom c)).toNat = 0x21 + 2 ^ 16 * c.toNat ∧
    (encode (.readSerialNumber c)).toNat = 0x22 + 2 ^ 16 * c.toNat ∧
    exec (.readSerialNumber c) s = exec (.readRom c) s ∧
    (s.level 0 = .high → exec (.readRom c) s = .next (absent s)) ∧
    (s.level 0 = .low → ∃ t, exec (.readRom c) s = .next t ∧
      t = { completed s t
          (if c = true ∧ crc8 ((s.romAt 1).toList.take 7) ≠ (s.romAt 1)[7] then .crcFail else .ok) 0
          (.rst .low :: (wb 0x33 ++ s.readEvents 1 64)) 65 with
        rom := s.romAt 1, presence := true
        crcreg := if c then crc8 ((s.romAt 1).toList.take 7) else s.crcreg })

/-- 42_transactions.md R154, R155: the two start operations: words, DeviceNotFound, and the frame. -/
def Obligations.StartConversionResult : Prop :=
  ∀ (q : Poll) (s : State),
    encode (conversion q) = conversionOp q ∧
    (s.level 0 = .high → exec (conversion q) s = .next (absent s)) ∧
    (s.level 0 = .low → ∃ t, exec (conversion q) s = .next t ∧
      t = { completed s t .ok 0 (.rst .low :: (wb 0xCC ++ wb (wireCommand q))) 1 with presence := true })

/-- 42_transactions.md R156: the word, BadParam before any bus activity, both aborts with BUF unchanged, and the
successful read into BUF, with no CRC check. -/
def Obligations.ReadPageResult : Prop :=
  ∀ (p : Byte) (s : State),
    (encode (.readPage p)).toNat = 0x25 + 2 ^ 8 * p.toNat ∧
    (7 < p.toNat → exec (.readPage p) s = .next (badParam s)) ∧
    (p.toNat ≤ 7 → abortsInPageRead (.readPage p) p s ∧
      (resetsLow s 0 → ∃ t, exec (.readPage p) s = .next t ∧
        t = { completed s t .ok 0 (s.pageReadEvents p 0) 74 with buf := s.pageAt 2, presence := true }))

/-- 42_transactions.md R157: the word, BadParam before any bus activity, both aborts, and the successful write of the
nine bytes of BUF as they are, followed by the copy command. -/
def Obligations.WritePageResult : Prop :=
  ∀ (p : Byte) (s : State),
    (encode (.writePage p)).toNat = 0x26 + 2 ^ 8 * p.toNat ∧
    (7 < p.toNat → exec (.writePage p) s = .next (badParam s)) ∧
    (p.toNat ≤ 7 →
      (s.level 0 = .high → exec (.writePage p) s = .next (absent s)) ∧
      (s.level 0 = .low → s.level 1 = .high → ∃ t, exec (.writePage p) s = .next t ∧
        t = { completed s t .deviceNotFound 0 (pageEvents 0x4E p ++ bufEvents s.buf ++ [.rst .high]) 2 with
          presence := false }) ∧
      (resetsLow s 0 → ∃ t, exec (.writePage p) s = .next t ∧
        t = { completed s t .ok 0 (pageWriteEvents p s.buf) 2 with presence := true }))

/-- 42_transactions.md R159, R160: the readiness tests: words, both aborts, and after the page read CrcFail before Error
before Ok, with BUF and CRCREG as the read left them. That BUF keeps the received bytes after a CrcFail is R158 with the
spec's decision D21. -/
def Obligations.ReadinessTestResult : Prop :=
  ∀ (q : Poll) (c : Bool) (s : State),
    (encode (readinessTest q c)).toNat = (readinessOp q).toNat + 2 ^ 16 * c.toNat ∧
    abortsInPageRead (readinessTest q c) 0 s ∧
    (resetsLow s 0 → ∃ t, exec (readinessTest q c) s = .next t ∧
      t = { completed s t
          (if crcOk c (s.pageAt 2) = false then .crcFail
            else if (s.pageAt 2)[0].getLsbD (busyBit q) then .error else .ok) 0 (s.pageReadEvents 0 0) 74 with
        buf := s.pageAt 2, presence := true, crcreg := crcregAfter c s.crcreg (s.pageAt 2) })

/-- 42_transactions.md R164: the word, both aborts, and RVAL = NVB. -/
def Obligations.CopyInProgressResult : Prop :=
  encode .copyInProgress = 0x2B ∧
  ∀ s : State, abortsInPageRead .copyInProgress 0 s ∧
    (resetsLow s 0 → ∃ t, exec .copyInProgress s = .next t ∧
      t = { completed s t .ok (if (s.pageAt 2)[0].getLsbD 5 then 1 else 0) (s.pageReadEvents 0 0) 74 with
        buf := s.pageAt 2, presence := true })

/-- 42_transactions.md R165: the word, both aborts, CrcFail, and RVAL = the top two bits of byte 7. What BUF, CRCREG and
RVAL hold after a CrcFail is R158 and 60_exceptions.md R225 with the spec's decision D21. -/
def Obligations.ReadThresholdResult : Prop :=
  ∀ (c : Bool) (s : State),
    (encode (.readThreshold c)).toNat = 0x2C + 2 ^ 16 * c.toNat ∧
    abortsInPageRead (.readThreshold c) 0 s ∧
    (resetsLow s 0 → ∃ t, exec (.readThreshold c) s = .next t ∧
      t = { completed s t (readCode c (s.pageAt 2))
          (if crcOk c (s.pageAt 2) then BitVec.ofNat 32 ((s.pageAt 2)[7].toNat / 64) else 0)
          (s.pageReadEvents 0 0) 74 with
        buf := s.pageAt 2, presence := true, crcreg := crcregAfter c s.crcreg (s.pageAt 2) })

/-- 42_transactions.md R166, R167: `get_ica` and `get_capacity`: words, both aborts, CrcFail, and RVAL = byte 4 of page 1;
"bus activity, registers and result codes are exactly those of `get_ica`". -/
def Obligations.IcaAndCapacityResult : Prop :=
  ∀ (c : Bool) (s : State),
    (encode (.getIca c)).toNat = 0x2D + 2 ^ 16 * c.toNat ∧ (encode (.getCapacity c)).toNat = 0x2E + 2 ^ 16 * c.toNat ∧
    exec (.getCapacity c) s = exec (.getIca c) s ∧
    abortsInPageRead (.getIca c) 1 s ∧
    (resetsLow s 0 → ∃ t, exec (.getIca c) s = .next t ∧
      t = { completed s t (readCode c (s.pageAt 2))
          (if crcOk c (s.pageAt 2) then (s.pageAt 2)[4].zeroExtend 32 else 0) (s.pageReadEvents 1 0) 74 with
        buf := s.pageAt 2, presence := true, crcreg := crcregAfter c s.crcreg (s.pageAt 2) })

/-- 42_transactions.md R161 to R163: a blocking read whose first poll answers Ok: five resets, the page that the decode
used in BUF, RVAL its raw value, POLLCNT 1; CrcFail where the page read for the decode fails its check; DeviceNotFound
where the first or the second reset of that page read samples high, with the page of the poll in BUF. A start command
without presence is propagated. That all of it is one `exec` is the model's choice (log 6). -/
def Obligations.BlockingReadWithFirstPollReady : Prop :=
  ∀ (q : Poll) (c : Bool) (s : State),
    (encode (blockingRead q c)).toNat = (blockingOp q).toNat + 2 ^ 16 * c.toNat ∧
    (s.level 0 = .high → exec (blockingRead q c) s = .next (absent s)) ∧
    (s.level 0 = .low → pollReady q c s 1 = true → resetsLow s 75 → ∃ t, exec (blockingRead q c) s = .next t ∧
      t = { completed s t (readCode c (s.pageAt 77))
          (if crcOk c (s.pageAt 77) then BitVec.ofInt 32 (rawValue q (s.pageAt 77)) else 0)
          (.rst .low :: (wb 0xCC ++ wb (wireCommand q)) ++ s.pageReadEvents 0 1 ++ s.pageReadEvents 0 75) 149 with
        buf := s.pageAt 77, presence := true, pollcnt := 1
        crcreg := crcregAfter c s.crcreg (s.pageAt 77) }) ∧
    (s.level 0 = .low → pollReady q c s 1 = true → s.level 75 = .high → ∃ t, exec (blockingRead q c) s = .next t ∧
      t = { completed s t .deviceNotFound 0
          (.rst .low :: (wb 0xCC ++ wb (wireCommand q)) ++ s.pageReadEvents 0 1 ++ [.rst .high]) 76 with
        buf := s.pageAt 3, presence := false, pollcnt := 1, crcreg := crcregAfter c s.crcreg (s.pageAt 3) }) ∧
    (s.level 0 = .low → pollReady q c s 1 = true → s.level 75 = .low → s.level 76 = .high →
      ∃ t, exec (blockingRead q c) s = .next t ∧
      t = { completed s t .deviceNotFound 0
          (.rst .low :: (wb 0xCC ++ wb (wireCommand q)) ++ s.pageReadEvents 0 1 ++ (pageEvents 0xB8 0 ++ [.rst .high]))
          77 with
        buf := s.pageAt 3, presence := false, pollcnt := 1, crcreg := crcregAfter c s.crcreg (s.pageAt 3) })

/-- 42_transactions.md R161, R162, R163: after any number m of polls that do not answer Ok (whatever made each of them
fail) and a poll that does, the blocking read completes in m + 1 steps with POLLCNT = m + 1, whether polling is unbounded
or the bound is above m: with the raw value of the page read last, or CrcFail where that page fails its check, or
DeviceNotFound where the first or the second reset of that page read samples high. That a step is one poll is the model's
choice (log 6). -/
def Obligations.BlockingReadCompletesAfterBusyPolls : Prop :=
  ∀ (q : Poll) (c : Bool) (s : State) (m : Nat), blockingReadIssued q c s →
    (s.cfg.pollLimit = 0 ∨ m < s.cfg.pollLimit.toNat) →
    (∀ n < m, pollReady q c s (pollStart s n) = false) → pollReady q c s (pollStart s m) = true →
    let k := pollStart s (m + 1)
    let polled := s.pageAt (pollStart s m + 2)
    ∃ t, Sys2Proof.core.run (m + 1) s = .next t ∧
      (resetsLow s k → t = { completed s t (readCode c (s.pageAt (k + 2)))
          (if crcOk c (s.pageAt (k + 2)) then BitVec.ofInt 32 (rawValue q (s.pageAt (k + 2))) else 0)
          (pollsEvents q s (m + 1) ++ s.pageReadEvents 0 k) (k + 74) with
        buf := s.pageAt (k + 2), presence := true, pollcnt := BitVec.ofNat 32 (m + 1)
        crcreg := crcregAfter c s.crcreg (s.pageAt (k + 2)) }) ∧
      (s.level k = .high → t = { completed s t .deviceNotFound 0
          (pollsEvents q s (m + 1) ++ [.rst .high]) (k + 1) with
        buf := polled, presence := false, pollcnt := BitVec.ofNat 32 (m + 1)
        crcreg := crcregAfter c s.crcreg polled }) ∧
      (s.level k = .low → s.level (k + 1) = .high → t = { completed s t .deviceNotFound 0
          (pollsEvents q s (m + 1) ++ (pageEvents 0xB8 0 ++ [.rst .high])) (k + 2) with
        buf := polled, presence := false, pollcnt := BitVec.ofNat 32 (m + 1)
        crcreg := crcregAfter c s.crcreg polled })

/-- 42_transactions.md R161, 60_exceptions.md R228: inside the readiness loop, with the bound not reached, a step from the
start of a poll that does not answer Ok makes exactly the slots of that poll and stands at the start of the next: BUSY,
DONE, RESULT and RVAL unchanged, POLLCNT one more, BUF and CRCREG those of the page the poll read, if it read one. That a
step is one poll is the model's choice (log 6). -/
def Obligations.FailedPollIsFollowedByAnother : Prop :=
  ∀ (q : Poll) (c : Bool) (s : State), s.busy = true → s.seq = .polling q c (hasData q c) → s.agenda = [] →
    pollReady q c s 0 = false → (s.cfg.pollLimit = 0 ∨ (s.pollcnt + 1).toNat < s.cfg.pollLimit.toNat) →
    ∃ t, step s = .next t ∧
      t = { s with
        pollcnt := s.pollcnt + 1, drawn := s.drawn + pollSamples s 0, bus := s.bus ++ pollEvents s 0
        pins := s.pins ++ (pollEvents s 0).flatMap (slotPins s.cfg), lineDrv := false
        presence := decide (resetsLow s 0)
        buf := if resetsLow s 0 then s.pageAt 2 else s.buf
        crcreg := if resetsLow s 0 then crcregAfter c s.crcreg (s.pageAt 2) else s.crcreg
        shift := t.shift, bitcnt := t.bitcnt, bytecnt := t.bytecnt }

/-- 60_exceptions.md R228, 70_reset_and_hazards.md R261: with POLL_LIMIT = 0, as long as no poll answers Ok the blocking
read never completes: after any number of steps BUSY is still 1 and DONE, RESULT and RVAL are as they were. That a step
is one poll is the model's choice (log 6). -/
def Obligations.UnboundedPollNeverCompletes : Prop :=
  ∀ (q : Poll) (c : Bool) (s : State) (m : Nat), blockingReadIssued q c s → s.cfg.pollLimit = 0 →
    (∀ n ≤ m, pollReady q c s (pollStart s n) = false) →
    ∃ t, Sys2Proof.core.run (m + 1) s = .next t ∧
      t.busy = true ∧ t.done = s.done ∧ t.result = s.result ∧ t.rval = s.rval ∧ t.seq ≠ .idle ∧ t.cmd = s.cmd ∧
      t.pollcnt = BitVec.ofNat 32 (m + 1) ∧ t.drawn = s.drawn + pollStart s (m + 1)

/-- 42_transactions.md R161, 60_exceptions.md R220: with POLL_LIMIT = m + 1, that many polls without Ok end the operation
with Timeout and RVAL 0 at the last of them, and at no step before; H has the slots of the start command and of every
poll, PRESENCE is the last poll's, and BUF and CRCREG hold what the last poll that read a page left. And inside the
readiness loop a poll without Ok that reaches the bound makes exactly its own slots and ends the operation so. That a step
is one poll is the model's choice (log 6). -/
def Obligations.PollLimitEndsInTimeout : Prop :=
  (∀ (q : Poll) (c : Bool) (s : State) (m : Nat), blockingReadIssued q c s → s.cfg.pollLimit.toNat = m + 1 →
    (∀ n ≤ m, pollReady q c s (pollStart s n) = false) →
    (∃ t, Sys2Proof.core.run (m + 1) s = .next t ∧
      t = { completed s t .timeout 0 (pollsEvents q s (m + 1)) (pollStart s (m + 1)) with
        pollcnt := s.cfg.pollLimit, presence := decide (resetsLow s (pollStart s m))
        buf := pollsBuf s (m + 1), crcreg := pollsCrcreg c s (m + 1) }) ∧
    (∀ j ≤ m, ∃ t, Sys2Proof.core.run j s = .next t ∧ t.busy = true ∧ t.result = s.result)) ∧
  (∀ (q : Poll) (c : Bool) (s : State), s.busy = true → s.seq = .polling q c (hasData q c) → s.agenda = [] →
    pollReady q c s 0 = false → 0 < s.cfg.pollLimit.toNat → s.cfg.pollLimit.toNat ≤ (s.pollcnt + 1).toNat →
    ∃ t, step s = .next t ∧
      t = { completed s t .timeout 0 (pollEvents s 0) (pollSamples s 0) with
        pollcnt := s.pollcnt + 1, presence := decide (resetsLow s 0)
        buf := if resetsLow s 0 then s.pageAt 2 else s.buf
        crcreg := if resetsLow s 0 then crcregAfter c s.crcreg (s.pageAt 2) else s.crcreg })

/-- 43_flags.md R182 to R187: each of the six enable and disable operations: its word, the abort at each of the four
resets, and with presence at all of them the page read and written back with exactly its bit of byte 0 changed and
byte 8 as received. That the page is not validated, byte 8 goes back as received and BUF holds the page as written, also
after a failed write, is 43_flags.md R180 with the spec's decision D19. -/
def Obligations.StatusBitToggleResult : Prop :=
  ∀ (i : Instr) (b : Nat) (v : Bool) (w : Word) (s : State), (i, b, v, w) ∈ toggles →
    encode i = w ∧ abortsInPageRead i 0 s ∧
    (resetsLow s 0 → s.level 74 = .high → ∃ t, exec i s = .next t ∧
      t = { completed s t .deviceNotFound 0 (s.pageReadEvents 0 0 ++ [.rst .high]) 75 with
        buf := withBit (s.pageAt 2) b v, presence := false }) ∧
    (resetsLow s 0 → s.level 74 = .low → s.level 75 = .high → ∃ t, exec i s = .next t ∧
      t = { completed s t .deviceNotFound 0
          (s.pageReadEvents 0 0 ++ (pageEvents 0x4E 0 ++ bufEvents (withBit (s.pageAt 2) b v) ++ [.rst .high])) 76 with
        buf := withBit (s.pageAt 2) b v, presence := false }) ∧
    (resetsLow s 0 → resetsLow s 74 → ∃ t, exec i s = .next t ∧
      t = { completed s t .ok 0 (s.pageReadEvents 0 0 ++ pageWriteEvents 0 (withBit (s.pageAt 2) b v)) 76 with
        buf := withBit (s.pageAt 2) b v, presence := true })

/-- 43_flags.md R181: the word, BadParam for a selector above 1 before any bus activity, the aborts, CrcFail with nothing
written, and the write-back with bit 3 set for VDD = 1 and cleared for VAD = 0. Which of the two sets the bit is the
spec's own choice (92_eei_decisions.md D8; log 15). -/
def Obligations.SelectInputSourceResult : Prop :=
  ∀ (v : Byte) (c : Bool) (s : State),
    (encode (.selectInputSource v c)).toNat = 0x30 + 2 ^ 8 * v.toNat + 2 ^ 16 * c.toNat ∧
    (1 < v.toNat → exec (.selectInputSource v c) s = .next (badParam s)) ∧
    (v.toNat ≤ 1 → abortsInPageRead (.selectInputSource v c) 0 s ∧
      (resetsLow s 0 → crcOk c (s.pageAt 2) = false → ∃ t, exec (.selectInputSource v c) s = .next t ∧
        t = { completed s t .crcFail 0 (s.pageReadEvents 0 0) 74 with
          buf := s.pageAt 2, presence := true, crcreg := crc8 ((s.pageAt 2).toList.take 8) }) ∧
      (resetsLow s 0 → crcOk c (s.pageAt 2) = true → s.level 74 = .high → ∃ t,
        exec (.selectInputSource v c) s = .next t ∧
        t = { completed s t .deviceNotFound 0 (s.pageReadEvents 0 0 ++ [.rst .high]) 75 with
          buf := withBit (s.pageAt 2) 3 (decide (v = 1)), presence := false
          crcreg := crcregAfter c s.crcreg (s.pageAt 2) }) ∧
      (resetsLow s 0 → crcOk c (s.pageAt 2) = true → s.level 74 = .low → s.level 75 = .high → ∃ t,
        exec (.selectInputSource v c) s = .next t ∧
        t = { completed s t .deviceNotFound 0 (s.pageReadEvents 0 0 ++ (pageEvents 0x4E 0 ++
            bufEvents (withBit (s.pageAt 2) 3 (decide (v = 1))) ++ [.rst .high])) 76 with
          buf := withBit (s.pageAt 2) 3 (decide (v = 1)), presence := false
          crcreg := crcregAfter c s.crcreg (s.pageAt 2) }) ∧
      (resetsLow s 0 → crcOk c (s.pageAt 2) = true → resetsLow s 74 → ∃ t,
        exec (.selectInputSource v c) s = .next t ∧
        t = { completed s t .ok 0
            (s.pageReadEvents 0 0 ++ pageWriteEvents 0 (withBit (s.pageAt 2) 3 (decide (v = 1)))) 76 with
          buf := withBit (s.pageAt 2) 3 (decide (v = 1)), presence := true
          crcreg := crcregAfter c s.crcreg (s.pageAt 2) }))

/-- 43_flags.md R188: the word, BadParam for a value above 3 before any bus activity, the aborts of the first read, and
the successful write of byte 7: with IAD clear one read and one write; with IAD set a complete nested `disable_iad`
first, so that IAD stays disabled. -/
def Obligations.WriteThresholdResult : Prop :=
  ∀ (v : Byte) (s : State),
    (encode (.writeThreshold v)).toNat = 0x37 + 2 ^ 8 * v.toNat ∧
    (3 < v.toNat → exec (.writeThreshold v) s = .next (badParam s)) ∧
    (v.toNat ≤ 3 → abortsInPageRead (.writeThreshold v) 0 s ∧
      (resetsLow s 0 → (s.pageAt 2)[0].getLsbD 0 = false → resetsLow s 74 → ∃ t,
        exec (.writeThreshold v) s = .next t ∧
        t = { completed s t .ok 0
            (s.pageReadEvents 0 0 ++ pageWriteEvents 0 ((s.pageAt 2).set 7 (BitVec.ofNat 8 (64 * v.toNat)))) 76 with
          buf := (s.pageAt 2).set 7 (BitVec.ofNat 8 (64 * v.toNat)), presence := true }) ∧
      (resetsLow s 0 → (s.pageAt 2)[0].getLsbD 0 = true → resetsLow s 74 → resetsLow s 148 → resetsLow s 150 → ∃ t,
        exec (.writeThreshold v) s = .next t ∧
        t = { completed s t .ok 0
            (s.pageReadEvents 0 0 ++ s.pageReadEvents 0 74 ++ pageWriteEvents 0 (withBit (s.pageAt 76) 0 false) ++
              pageWriteEvents 0 ((withBit (s.pageAt 76) 0 false).set 7 (BitVec.ofNat 8 (64 * v.toNat)))) 152 with
          buf := (withBit (s.pageAt 76) 0 false).set 7 (BitVec.ofNat 8 (64 * v.toNat)), presence := true }))

/-- 43_flags.md R188: DeviceNotFound at each reset of `write_threshold` after its first page read: with IAD clear at the
third and fourth (the write); with IAD set at the third and fourth (the nested read), the fifth and sixth (the nested
write) and the seventh and eighth (the final write); and what stands on the wire and in BUF then. That the nested
`disable_iad` is a whole read and write is the spec's decision D20, and that nothing is rolled back is D21. -/
def Obligations.WriteThresholdAborts : Prop :=
  ∀ (v : Byte) (s : State), v.toNat ≤ 3 → resetsLow s 0 →
    let aborts (es : List BusEvent) (n : Nat) (page : Vector Byte 9) : Prop :=
      ∃ t, exec (.writeThreshold v) s = .next t ∧
        t = { completed s t .deviceNotFound 0 (s.pageReadEvents 0 0 ++ es ++ [.rst .high]) n with
          buf := page, presence := false }
    let raised (page : Vector Byte 9) : Vector Byte 9 := page.set 7 (BitVec.ofNat 8 (64 * v.toNat))
    let paused := withBit (s.pageAt 76) 0 false
    ((s.pageAt 2)[0].getLsbD 0 = false →
      (s.level 74 = .high → aborts [] 75 (raised (s.pageAt 2))) ∧
      (s.level 74 = .low → s.level 75 = .high →
        aborts (pageEvents 0x4E 0 ++ bufEvents (raised (s.pageAt 2))) 76 (raised (s.pageAt 2)))) ∧
    ((s.pageAt 2)[0].getLsbD 0 = true →
      (s.level 74 = .high → aborts [] 75 (s.pageAt 2)) ∧
      (s.level 74 = .low → s.level 75 = .high → aborts (pageEvents 0xB8 0) 76 (s.pageAt 2)) ∧
      (resetsLow s 74 → s.level 148 = .high → aborts (s.pageReadEvents 0 74) 149 paused) ∧
      (resetsLow s 74 → s.level 148 = .low → s.level 149 = .high →
        aborts (s.pageReadEvents 0 74 ++ (pageEvents 0x4E 0 ++ bufEvents paused)) 150 paused) ∧
      (resetsLow s 74 → resetsLow s 148 → s.level 150 = .high →
        aborts (s.pageReadEvents 0 74 ++ pageWriteEvents 0 paused) 151 (raised paused)) ∧
      (resetsLow s 74 → resetsLow s 148 → s.level 150 = .low → s.level 151 = .high →
        aborts (s.pageReadEvents 0 74 ++ pageWriteEvents 0 paused ++ (pageEvents 0x4E 0 ++ bufEvents (raised paused))) 152
          (raised paused)))

/-! ## Decode Layer -/

/-- 44_decode.md R201 to R204: the four decode operations: words, the raw integer in RVAL (read as a signed 32-bit
integer), nothing else changed but the completion registers, and the physical value of the page as raw times scale. That
they act on whatever BUF holds and leave the raw integer in RVAL is the spec's decisions D15 and D23; the values in
amperes and of the capacity are functions of BUF and of this machine's R_SENSE (log 4, log 18). -/
def Obligations.DecodeOperationsResult : Prop :=
  encode .decodeTemperature = 0x40 ∧ encode .decodeVoltage = 0x41 ∧ encode .decodeCurrent = 0x42 ∧
  encode .decodeCapacity = 0x43 ∧
  ∀ s : State,
    let ends (i : Instr) (v : Int) : Prop := ∃ r : Word, r.toInt = v ∧ exec i s = .next { s with
      rval := r, result := .ok, busy := false, done := true, seq := .idle }
    ends .decodeTemperature (signed16 s.buf[1] s.buf[2] >>> 3) ∧
    ends .decodeVoltage (s.buf[4].toNat * 256 + s.buf[3].toNat : Int) ∧
    ends .decodeCurrent (rawCurrent s.buf) ∧
    ends .decodeCapacity s.buf[4].toNat ∧
    s.celsiusOfBuf = ((signed16 s.buf[1] s.buf[2] >>> 3 : Int) : ℚ) / 32 ∧
    s.voltsOfBuf = (s.buf[4].toNat * 256 + s.buf[3].toNat : ℚ) / 100 ∧
    s.amperesOfBuf = (rawCurrent s.buf : ℚ) / (4096 * s.cfg.rSense.ohms) ∧
    s.capacityOfBuf = (s.buf[4].toNat : ℚ) / (2048 * s.cfg.rSense.ohms)

/-- 44_decode.md R201 to R203: the ranges of the raw values, the bound of the negative current path, and that bits 15:10
play no part in it. -/
def Obligations.DecodedValuesInRange : Prop :=
  ∀ buf : Vector Byte 9,
    (-4096 ≤ decTemp buf ∧ decTemp buf ≤ 4095) ∧ (0 ≤ decVolt buf ∧ decVolt buf ≤ 65535) ∧
    (-32768 ≤ decCurr buf ∧ decCurr buf ≤ 32255) ∧ (0 ≤ decCap buf ∧ decCap buf ≤ 255) ∧
    (1 < buf[6].toNat % 4 → -511 ≤ decCurr buf ∧ decCurr buf ≤ 0 ∧
      ∀ x : Byte, decCurr (buf.set 6 ((x &&& 0xFC#8) ||| (buf[6] &&& 0x03#8))) = decCurr buf)

/-- 44_decode.md R206: the physical values are the exact rationals of the rule, for whatever positive R_SENSE the machine
is built with (log 4); on the negative path the current's magnitude is below 1024 / (4096 * R_SENSE); and a delivery in
the number format NUMFMT gives the exact value, or a number of the floating-point format than which none of its numbers
is nearer. -/
def Obligations.PhysicalValuesAreExact : Prop :=
  ∀ s : State,
    0 < s.cfg.rSense.ohms ∧
    s.celsiusOfBuf * 32 = decTemp s.buf ∧ s.voltsOfBuf * 100 = decVolt s.buf ∧
    s.amperesOfBuf * (4096 * s.cfg.rSense.ohms) = decCurr s.buf ∧
    s.capacityOfBuf * (2048 * s.cfg.rSense.ohms) = decCap s.buf ∧
    (1 < s.buf[6].toNat % 4 → |s.amperesOfBuf| < 1024 / (4096 * s.cfg.rSense.ohms)) ∧
    let delivered (x d : ℚ) : Prop := match s.cfg.numFmt with
      | .exact => d = x
      | .floating first others =>
        (∃ v ∈ first :: others, d = v.value) ∧ ∀ v ∈ first :: others, |d - x| ≤ |v.value - x|
    delivered s.celsiusOfBuf s.celsiusDelivered ∧ delivered s.voltsOfBuf s.voltsDelivered ∧
    delivered s.amperesOfBuf s.amperesDelivered ∧ delivered s.capacityOfBuf s.capacityDelivered

/-! ## Whole-machine rules -/

/-- 30_encoding.md R100, 60_exceptions.md R223: an operation with an operand outside its legal values fails with BadParam
before any other action, whatever the line would answer. -/
def Obligations.IllegalOperandIsBadParam : Prop :=
  ∀ (i : Instr) (s : State), i.wellFormed = false → exec i s = .next (badParam s)

/-- 42_transactions.md R150, R168 (a): a transaction whose first sample is high puts exactly one failed reset on the wire,
writes nothing, and reports DeviceNotFound. -/
def Obligations.AbsentDeviceAbortsEveryTransaction : Prop :=
  ∀ (i : Instr) (s : State), isTransaction i = true → i.wellFormed = true → s.level 0 = .high →
    exec i s = .next (absent s)

/-- 42_transactions.md R150, R168 (c): in everything a transaction puts on the wire, each write slot comes after a reset
that detected presence, with no failed reset between; at every position inside it, and in a blocking read at every poll
and at its completion in a later step. -/
def Obligations.TransactionsWriteOnlyAfterPresence : Prop :=
  ∀ (i : Instr) (s t : State), isTransaction i = true → reaches i s t →
    ∃ es, t.bus = s.bus ++ es ∧ writesAfterPresence false es = true

/-- 30_encoding.md R96, 10_state.md R23: a completed operation with legal operands reports one of the codes the table
lists for it, Timeout only with a bound on the polls, and leaves 0 in RVAL unless it reports Ok; a blocking read also
where it completes in a later step. -/
def Obligations.ResultCodesAsTabled : Prop :=
  ∀ (i : Instr) (s t : State), i.wellFormed = true → reaches i s t → t.seq = .idle →
    t.result ∈ codes i ∧ (t.result = .timeout → s.cfg.pollLimit ≠ 0) ∧ (t.result ≠ .ok → t.rval = 0) ∧
    t.busy = false ∧ t.done = true

/-- 10_state.md R21 to R27, 60_exceptions.md R230: which operations can change which register; no operation
changes CMD, the parameters, the environment's script, the turns to come or the host's reads; at every position inside
the operation, and in a blocking read at every poll and at its completion in a later step. And R23, R26, R27: RESULT,
RVAL, DONE and BUSY of an issued operation stay as the issue left them until it completes. -/
def Obligations.RegistersChangeOnlyByTheirWriters : Prop :=
  ∀ (i : Instr) (s t : State), reaches i s t →
    (writesBuf i = false → t.buf = s.buf) ∧ (writesRom i = false → t.rom = s.rom) ∧
    (evaluatesCrc i = false → t.crcreg = s.crcreg) ∧ (runsReset i = false → t.presence = s.presence) ∧
    (countsPolls i = false → t.pollcnt = s.pollcnt) ∧
    t.cmd = s.cmd ∧ t.cfg = s.cfg ∧ t.samples = s.samples ∧ t.agenda = s.agenda ∧ t.readData = s.readData ∧
    t.reads = s.reads ∧
    (s.seq = .issued → s.busy = true → t.seq ≠ .idle →
      t.result = s.result ∧ t.rval = s.rval ∧ t.done = s.done ∧ t.busy = s.busy)

/-- 41_transport.md R130, 30_encoding.md R98: an operation reaches the line only through whole slots: the pin history
grows by exactly the pin primitives of the slots that H grows by, and PRESENCE follows the resets among them; at every
position inside the operation, and in a blocking read at every poll and at its completion in a later step. -/
def Obligations.OperationsReachTheLineOnlyBySlots : Prop :=
  ∀ (i : Instr) (s t : State), reaches i s t →
    ∃ es, t.bus = s.bus ++ es ∧ t.pins = s.pins ++ es.flatMap (slotPins s.cfg) ∧
      t.drawn = s.drawn + samplesIn (es.flatMap (slotPins s.cfg)) ∧ t.presence = presenceIn s.presence es ∧
      (s.lineDrv = false → t.lineDrv = false)

/-- 10_state.md R26, R30, R31, R32, R35: from every state that meets the invariant, whatever agent moves, a step gives a
state that meets it: BUSY and DONE exclude each other, SEQ is Idle exactly when BUSY = 0, PRESENCE is the last reset's
sample, the line is released and was released at every sample, the counters stay in range. -/
def Obligations.EveryStepKeepsInvariant : Prop :=
  ∀ s t : State, s.Inv → step s = .next t → t.Inv

/-- 60_exceptions.md R228: "the core always has a next step": in a state whose BUSY and SEQ agree no step faults or is
refused. -/
def Obligations.CoherentStateAlwaysSteps : Prop :=
  ∀ s : State, s.SeqMatchesBusy → ∃ t, step s = .next t

/-- 10_state.md R30: running an operation to its end is running it statement by statement, at most one slot at a time: one
tick of the sequencer puts at most one slot on the wire, and some number of ticks reaches exactly the state that `exec`
answers, and the state that running on from any position answers. -/
def Obligations.ExecIsTheSequencerRunOn : Prop :=
  (∀ (i : Instr) (s t : State), s.seq = .issued → decode s.cmd = .ok i → exec i s = .next t →
    ∃ n, State.ticks n s = t) ∧
  (∀ s : State, ∃ n, State.ticks n s = s.runOn) ∧
  (∀ s : State, ∃ es, s.tick.bus = s.bus ++ es ∧ es.length ≤ 1)

/-- 70_reset_and_hazards.md R266: no functional rule depends on time: with other delay parameters (and another R_SENSE,
NUMFMT and TICKS_PER_US) an operation leaves the same state, but for the parameters themselves and the pin history. -/
def Obligations.TimingParametersDoNotMatter : Prop :=
  ∀ (i : Instr) (s t : State) (cfg : Config) (pins : List PinEvent), cfg.pollLimit = s.cfg.pollLimit →
    exec i s = .next t →
    ∃ t', exec i { s with cfg := cfg, pins := pins } = .next t' ∧ t' = { t with cfg := cfg, pins := t'.pins }

/-- 10_state.md R28: no operation's behaviour depends on RESULT, RVAL, DONE or PRESENCE of an earlier operation: with
other values in them an operation leaves the same state, but for those of them it does not write: RESULT, RVAL and DONE
as long as it has not completed, and PRESENCE where none of its slots is a reset. -/
def Obligations.EarlierResultsDoNotMatter : Prop :=
  ∀ (i : Instr) (s t : State) (r : ResultCode) (v : Word) (d p : Bool), exec i s = .next t →
    ∃ t', exec i { s with result := r, rval := v, done := d, presence := p } = .next t' ∧
      t' = { t with result := t'.result, rval := t'.rval, done := t'.done, presence := t'.presence } ∧
      (t.seq = .idle → t'.result = t.result ∧ t'.rval = t.rval ∧ t'.done = t.done) ∧
      (t.seq ≠ .idle → t'.result = r ∧ t'.rval = v ∧ t'.done = d) ∧
      (∀ es, t.bus = s.bus ++ es →
        ((∃ l, .rst l ∈ es) → t'.presence = t.presence) ∧ ((∀ l, .rst l ∉ es) → t'.presence = p))

/-- 10_state.md R31: the working registers are never read between operations, "each operation initialises what it uses":
with other values in SHIFT, BITCNT, BYTECNT and POLLCNT an operation leaves the same state, but for these registers. -/
def Obligations.WorkingRegistersDoNotMatter : Prop :=
  ∀ (i : Instr) (s t : State) (sh : Byte) (bi by' : BitVec 4) (po : Word), exec i s = .next t →
    ∃ t', exec i { s with shift := sh, bitcnt := bi, bytecnt := by', pollcnt := po } = .next t' ∧
      t' = { t with shift := t'.shift, bitcnt := t'.bitcnt, bytecnt := t'.bytecnt, pollcnt := t'.pollcnt }
end

