-- ==== Sys2Proof/Laws/State.lean ====
section
/-! SUPPORT. One lemma per field for each named update of the state, true by rfl: later proofs never unfold a record
update. The closed forms of the three slots stand first. -/

namespace Sys2Proof.Machine

/-! ### The slots as one update each -/

theorem State.resetSlot_eq (s : State) : s.resetSlot = { s with
    presence := presenceOf (s.level 0), lineDrv := false, drawn := s.drawn + 1,
    bus := s.bus ++ [.rst (s.level 0)], pins := s.pins ++ slotPins s.cfg (.rst (s.level 0)) } := by
  simp [State.resetSlot, State.delay, State.driveLow, State.release, State.sampled, slotPins, State.level, State.levelAt]

theorem State.writeBit_eq (s : State) (b : Bool) : s.writeBit b = { s with
    lineDrv := false, bus := s.bus ++ [.w b], pins := s.pins ++ slotPins s.cfg (.w b) } := by
  cases b <;> simp [State.writeBit, State.delay, State.driveLow, State.release, slotPins]

theorem State.readBit_eq (s : State) : s.readBit = { s with
    lineDrv := false, drawn := s.drawn + 1,
    bus := s.bus ++ [.r (s.level 0)], pins := s.pins ++ slotPins s.cfg (.r (s.level 0)) } := by
  simp [State.readBit, State.delay, State.driveLow, State.release, State.sampled, slotPins, State.level, State.levelAt]

/-! ### `resetSlot`, field by field -/

@[simp] theorem State.resetSlot_buf (s : State) : (s.resetSlot).buf = s.buf := by simp [State.resetSlot_eq]
@[simp] theorem State.resetSlot_rom (s : State) : (s.resetSlot).rom = s.rom := by simp [State.resetSlot_eq]
@[simp] theorem State.resetSlot_rval (s : State) : (s.resetSlot).rval = s.rval := by simp [State.resetSlot_eq]
@[simp] theorem State.resetSlot_crcreg (s : State) : (s.resetSlot).crcreg = s.crcreg := by simp [State.resetSlot_eq]
@[simp] theorem State.resetSlot_cmd (s : State) : (s.resetSlot).cmd = s.cmd := by simp [State.resetSlot_eq]
@[simp] theorem State.resetSlot_result (s : State) : (s.resetSlot).result = s.result := by simp [State.resetSlot_eq]
@[simp] theorem State.resetSlot_busy (s : State) : (s.resetSlot).busy = s.busy := by simp [State.resetSlot_eq]
@[simp] theorem State.resetSlot_done (s : State) : (s.resetSlot).done = s.done := by simp [State.resetSlot_eq]
@[simp] theorem State.resetSlot_presence (s : State) : (s.resetSlot).presence = presenceOf (s.level 0) := by simp [State.resetSlot_eq]
@[simp] theorem State.resetSlot_lineDrv (s : State) : (s.resetSlot).lineDrv = false := by simp [State.resetSlot_eq]
@[simp] theorem State.resetSlot_seq (s : State) : (s.resetSlot).seq = s.seq := by simp [State.resetSlot_eq]
@[simp] theorem State.resetSlot_shift (s : State) : (s.resetSlot).shift = s.shift := by simp [State.resetSlot_eq]
@[simp] theorem State.resetSlot_bitcnt (s : State) : (s.resetSlot).bitcnt = s.bitcnt := by simp [State.resetSlot_eq]
@[simp] theorem State.resetSlot_bytecnt (s : State) : (s.resetSlot).bytecnt = s.bytecnt := by simp [State.resetSlot_eq]
@[simp] theorem State.resetSlot_pollcnt (s : State) : (s.resetSlot).pollcnt = s.pollcnt := by simp [State.resetSlot_eq]
@[simp] theorem State.resetSlot_cfg (s : State) : (s.resetSlot).cfg = s.cfg := by simp [State.resetSlot_eq]
@[simp] theorem State.resetSlot_samples (s : State) : (s.resetSlot).samples = s.samples := by simp [State.resetSlot_eq]
@[simp] theorem State.resetSlot_drawn (s : State) : (s.resetSlot).drawn = s.drawn + 1 := by simp [State.resetSlot_eq]
@[simp] theorem State.resetSlot_bus (s : State) : (s.resetSlot).bus = s.bus ++ [.rst (s.level 0)] := by simp [State.resetSlot_eq]
@[simp] theorem State.resetSlot_pins (s : State) : (s.resetSlot).pins = s.pins ++ slotPins s.cfg (.rst (s.level 0)) := by simp [State.resetSlot_eq]
@[simp] theorem State.resetSlot_agenda (s : State) : (s.resetSlot).agenda = s.agenda := by simp [State.resetSlot_eq]
@[simp] theorem State.resetSlot_readData (s : State) : (s.resetSlot).readData = s.readData := by simp [State.resetSlot_eq]
@[simp] theorem State.resetSlot_reads (s : State) : (s.resetSlot).reads = s.reads := by simp [State.resetSlot_eq]

/-! ### `writeBit`, field by field -/

@[simp] theorem State.writeBit_buf (s : State) (b : Bool) : (s.writeBit b).buf = s.buf := by simp [State.writeBit_eq]
@[simp] theorem State.writeBit_rom (s : State) (b : Bool) : (s.writeBit b).rom = s.rom := by simp [State.writeBit_eq]
@[simp] theorem State.writeBit_rval (s : State) (b : Bool) : (s.writeBit b).rval = s.rval := by simp [State.writeBit_eq]
@[simp] theorem State.writeBit_crcreg (s : State) (b : Bool) : (s.writeBit b).crcreg = s.crcreg := by simp [State.writeBit_eq]
@[simp] theorem State.writeBit_cmd (s : State) (b : Bool) : (s.writeBit b).cmd = s.cmd := by simp [State.writeBit_eq]
@[simp] theorem State.writeBit_result (s : State) (b : Bool) : (s.writeBit b).result = s.result := by simp [State.writeBit_eq]
@[simp] theorem State.writeBit_busy (s : State) (b : Bool) : (s.writeBit b).busy = s.busy := by simp [State.writeBit_eq]
@[simp] theorem State.writeBit_done (s : State) (b : Bool) : (s.writeBit b).done = s.done := by simp [State.writeBit_eq]
@[simp] theorem State.writeBit_presence (s : State) (b : Bool) : (s.writeBit b).presence = s.presence := by simp [State.writeBit_eq]
@[simp] theorem State.writeBit_lineDrv (s : State) (b : Bool) : (s.writeBit b).lineDrv = false := by simp [State.writeBit_eq]
@[simp] theorem State.writeBit_seq (s : State) (b : Bool) : (s.writeBit b).seq = s.seq := by simp [State.writeBit_eq]
@[simp] theorem State.writeBit_shift (s : State) (b : Bool) : (s.writeBit b).shift = s.shift := by simp [State.writeBit_eq]
@[simp] theorem State.writeBit_bitcnt (s : State) (b : Bool) : (s.writeBit b).bitcnt = s.bitcnt := by simp [State.writeBit_eq]
@[simp] theorem State.writeBit_bytecnt (s : State) (b : Bool) : (s.writeBit b).bytecnt = s.bytecnt := by simp [State.writeBit_eq]
@[simp] theorem State.writeBit_pollcnt (s : State) (b : Bool) : (s.writeBit b).pollcnt = s.pollcnt := by simp [State.writeBit_eq]
@[simp] theorem State.writeBit_cfg (s : State) (b : Bool) : (s.writeBit b).cfg = s.cfg := by simp [State.writeBit_eq]
@[simp] theorem State.writeBit_samples (s : State) (b : Bool) : (s.writeBit b).samples = s.samples := by simp [State.writeBit_eq]
@[simp] theorem State.writeBit_drawn (s : State) (b : Bool) : (s.writeBit b).drawn = s.drawn := by simp [State.writeBit_eq]
@[simp] theorem State.writeBit_bus (s : State) (b : Bool) : (s.writeBit b).bus = s.bus ++ [.w b] := by simp [State.writeBit_eq]
@[simp] theorem State.writeBit_pins (s : State) (b : Bool) : (s.writeBit b).pins = s.pins ++ slotPins s.cfg (.w b) := by simp [State.writeBit_eq]
@[simp] theorem State.writeBit_agenda (s : State) (b : Bool) : (s.writeBit b).agenda = s.agenda := by simp [State.writeBit_eq]
@[simp] theorem State.writeBit_readData (s : State) (b : Bool) : (s.writeBit b).readData = s.readData := by simp [State.writeBit_eq]
@[simp] theorem State.writeBit_reads (s : State) (b : Bool) : (s.writeBit b).reads = s.reads := by simp [State.writeBit_eq]

/-! ### `readBit`, field by field -/

@[simp] theorem State.readBit_buf (s : State) : (s.readBit).buf = s.buf := by simp [State.readBit_eq]
@[simp] theorem State.readBit_rom (s : State) : (s.readBit).rom = s.rom := by simp [State.readBit_eq]
@[simp] theorem State.readBit_rval (s : State) : (s.readBit).rval = s.rval := by simp [State.readBit_eq]
@[simp] theorem State.readBit_crcreg (s : State) : (s.readBit).crcreg = s.crcreg := by simp [State.readBit_eq]
@[simp] theorem State.readBit_cmd (s : State) : (s.readBit).cmd = s.cmd := by simp [State.readBit_eq]
@[simp] theorem State.readBit_result (s : State) : (s.readBit).result = s.result := by simp [State.readBit_eq]
@[simp] theorem State.readBit_busy (s : State) : (s.readBit).busy = s.busy := by simp [State.readBit_eq]
@[simp] theorem State.readBit_done (s : State) : (s.readBit).done = s.done := by simp [State.readBit_eq]
@[simp] theorem State.readBit_presence (s : State) : (s.readBit).presence = s.presence := by simp [State.readBit_eq]
@[simp] theorem State.readBit_lineDrv (s : State) : (s.readBit).lineDrv = false := by simp [State.readBit_eq]
@[simp] theorem State.readBit_seq (s : State) : (s.readBit).seq = s.seq := by simp [State.readBit_eq]
@[simp] theorem State.readBit_shift (s : State) : (s.readBit).shift = s.shift := by simp [State.readBit_eq]
@[simp] theorem State.readBit_bitcnt (s : State) : (s.readBit).bitcnt = s.bitcnt := by simp [State.readBit_eq]
@[simp] theorem State.readBit_bytecnt (s : State) : (s.readBit).bytecnt = s.bytecnt := by simp [State.readBit_eq]
@[simp] theorem State.readBit_pollcnt (s : State) : (s.readBit).pollcnt = s.pollcnt := by simp [State.readBit_eq]
@[simp] theorem State.readBit_cfg (s : State) : (s.readBit).cfg = s.cfg := by simp [State.readBit_eq]
@[simp] theorem State.readBit_samples (s : State) : (s.readBit).samples = s.samples := by simp [State.readBit_eq]
@[simp] theorem State.readBit_drawn (s : State) : (s.readBit).drawn = s.drawn + 1 := by simp [State.readBit_eq]
@[simp] theorem State.readBit_bus (s : State) : (s.readBit).bus = s.bus ++ [.r (s.level 0)] := by simp [State.readBit_eq]
@[simp] theorem State.readBit_pins (s : State) : (s.readBit).pins = s.pins ++ slotPins s.cfg (.r (s.level 0)) := by simp [State.readBit_eq]
@[simp] theorem State.readBit_agenda (s : State) : (s.readBit).agenda = s.agenda := by simp [State.readBit_eq]
@[simp] theorem State.readBit_readData (s : State) : (s.readBit).readData = s.readData := by simp [State.readBit_eq]
@[simp] theorem State.readBit_reads (s : State) : (s.readBit).reads = s.reads := by simp [State.readBit_eq]

/-! ### `complete`, field by field -/

@[simp] theorem State.complete_buf (s : State) (c : ResultCode) (v : Word) : (s.complete c v).buf = s.buf := rfl
@[simp] theorem State.complete_rom (s : State) (c : ResultCode) (v : Word) : (s.complete c v).rom = s.rom := rfl
@[simp] theorem State.complete_rval (s : State) (c : ResultCode) (v : Word) : (s.complete c v).rval = v := rfl
@[simp] theorem State.complete_crcreg (s : State) (c : ResultCode) (v : Word) : (s.complete c v).crcreg = s.crcreg := rfl
@[simp] theorem State.complete_cmd (s : State) (c : ResultCode) (v : Word) : (s.complete c v).cmd = s.cmd := rfl
@[simp] theorem State.complete_result (s : State) (c : ResultCode) (v : Word) : (s.complete c v).result = c := rfl
@[simp] theorem State.complete_busy (s : State) (c : ResultCode) (v : Word) : (s.complete c v).busy = false := rfl
@[simp] theorem State.complete_done (s : State) (c : ResultCode) (v : Word) : (s.complete c v).done = true := rfl
@[simp] theorem State.complete_presence (s : State) (c : ResultCode) (v : Word) : (s.complete c v).presence = s.presence := rfl
@[simp] theorem State.complete_lineDrv (s : State) (c : ResultCode) (v : Word) : (s.complete c v).lineDrv = s.lineDrv := rfl
@[simp] theorem State.complete_seq (s : State) (c : ResultCode) (v : Word) : (s.complete c v).seq = .idle := rfl
@[simp] theorem State.complete_shift (s : State) (c : ResultCode) (v : Word) : (s.complete c v).shift = s.shift := rfl
@[simp] theorem State.complete_bitcnt (s : State) (c : ResultCode) (v : Word) : (s.complete c v).bitcnt = s.bitcnt := rfl
@[simp] theorem State.complete_bytecnt (s : State) (c : ResultCode) (v : Word) : (s.complete c v).bytecnt = s.bytecnt := rfl
@[simp] theorem State.complete_pollcnt (s : State) (c : ResultCode) (v : Word) : (s.complete c v).pollcnt = s.pollcnt := rfl
@[simp] theorem State.complete_cfg (s : State) (c : ResultCode) (v : Word) : (s.complete c v).cfg = s.cfg := rfl
@[simp] theorem State.complete_samples (s : State) (c : ResultCode) (v : Word) : (s.complete c v).samples = s.samples := rfl
@[simp] theorem State.complete_drawn (s : State) (c : ResultCode) (v : Word) : (s.complete c v).drawn = s.drawn := rfl
@[simp] theorem State.complete_bus (s : State) (c : ResultCode) (v : Word) : (s.complete c v).bus = s.bus := rfl
@[simp] theorem State.complete_pins (s : State) (c : ResultCode) (v : Word) : (s.complete c v).pins = s.pins := rfl
@[simp] theorem State.complete_agenda (s : State) (c : ResultCode) (v : Word) : (s.complete c v).agenda = s.agenda := rfl
@[simp] theorem State.complete_readData (s : State) (c : ResultCode) (v : Word) : (s.complete c v).readData = s.readData := rfl
@[simp] theorem State.complete_reads (s : State) (c : ResultCode) (v : Word) : (s.complete c v).reads = s.reads := rfl

/-! ### `fail`, field by field -/

@[simp] theorem State.fail_buf (s : State) (c : ResultCode) : (s.fail c).buf = s.buf := rfl
@[simp] theorem State.fail_rom (s : State) (c : ResultCode) : (s.fail c).rom = s.rom := rfl
@[simp] theorem State.fail_rval (s : State) (c : ResultCode) : (s.fail c).rval = 0 := rfl
@[simp] theorem State.fail_crcreg (s : State) (c : ResultCode) : (s.fail c).crcreg = s.crcreg := rfl
@[simp] theorem State.fail_cmd (s : State) (c : ResultCode) : (s.fail c).cmd = s.cmd := rfl
@[simp] theorem State.fail_result (s : State) (c : ResultCode) : (s.fail c).result = c := rfl
@[simp] theorem State.fail_busy (s : State) (c : ResultCode) : (s.fail c).busy = false := rfl
@[simp] theorem State.fail_done (s : State) (c : ResultCode) : (s.fail c).done = true := rfl
@[simp] theorem State.fail_presence (s : State) (c : ResultCode) : (s.fail c).presence = s.presence := rfl
@[simp] theorem State.fail_lineDrv (s : State) (c : ResultCode) : (s.fail c).lineDrv = s.lineDrv := rfl
@[simp] theorem State.fail_seq (s : State) (c : ResultCode) : (s.fail c).seq = .idle := rfl
@[simp] theorem State.fail_shift (s : State) (c : ResultCode) : (s.fail c).shift = s.shift := rfl
@[simp] theorem State.fail_bitcnt (s : State) (c : ResultCode) : (s.fail c).bitcnt = s.bitcnt := rfl
@[simp] theorem State.fail_bytecnt (s : State) (c : ResultCode) : (s.fail c).bytecnt = s.bytecnt := rfl
@[simp] theorem State.fail_pollcnt (s : State) (c : ResultCode) : (s.fail c).pollcnt = s.pollcnt := rfl
@[simp] theorem State.fail_cfg (s : State) (c : ResultCode) : (s.fail c).cfg = s.cfg := rfl
@[simp] theorem State.fail_samples (s : State) (c : ResultCode) : (s.fail c).samples = s.samples := rfl
@[simp] theorem State.fail_drawn (s : State) (c : ResultCode) : (s.fail c).drawn = s.drawn := rfl
@[simp] theorem State.fail_bus (s : State) (c : ResultCode) : (s.fail c).bus = s.bus := rfl
@[simp] theorem State.fail_pins (s : State) (c : ResultCode) : (s.fail c).pins = s.pins := rfl
@[simp] theorem State.fail_agenda (s : State) (c : ResultCode) : (s.fail c).agenda = s.agenda := rfl
@[simp] theorem State.fail_readData (s : State) (c : ResultCode) : (s.fail c).readData = s.readData := rfl
@[simp] theorem State.fail_reads (s : State) (c : ResultCode) : (s.fail c).reads = s.reads := rfl

/-! ### The states after a CRC evaluation (10_state.md R24) -/

/-- `BUF[0..n-1]` in ascending index order (00_scope.md R11). -/
def State.bufPrefix (s : State) (n : Nat) : List Byte := s.buf.toList.take n

/-- `ROM[0..n-1]` in ascending index order. -/
def State.romPrefix (s : State) (n : Nat) : List Byte := s.rom.toList.take n

/-- The state after `crc8(BUF[0..n-1])`. -/
def State.evalCrcBuf (s : State) (n : Nat) : State := { s with crcreg := crc8 (s.bufPrefix n) }

/-- The state after `crc8(ROM[0..n-1])`. -/
def State.evalCrcRom (s : State) (n : Nat) : State := { s with crcreg := crc8 (s.romPrefix n) }

/-! ### `evalCrcBuf`, field by field -/

@[simp] theorem State.evalCrcBuf_buf (s : State) (n : Nat) : (s.evalCrcBuf n).buf = s.buf := rfl
@[simp] theorem State.evalCrcBuf_rom (s : State) (n : Nat) : (s.evalCrcBuf n).rom = s.rom := rfl
@[simp] theorem State.evalCrcBuf_rval (s : State) (n : Nat) : (s.evalCrcBuf n).rval = s.rval := rfl
@[simp] theorem State.evalCrcBuf_crcreg (s : State) (n : Nat) : (s.evalCrcBuf n).crcreg = crc8 (s.bufPrefix n) := rfl
@[simp] theorem State.evalCrcBuf_cmd (s : State) (n : Nat) : (s.evalCrcBuf n).cmd = s.cmd := rfl
@[simp] theorem State.evalCrcBuf_result (s : State) (n : Nat) : (s.evalCrcBuf n).result = s.result := rfl
@[simp] theorem State.evalCrcBuf_busy (s : State) (n : Nat) : (s.evalCrcBuf n).busy = s.busy := rfl
@[simp] theorem State.evalCrcBuf_done (s : State) (n : Nat) : (s.evalCrcBuf n).done = s.done := rfl
@[simp] theorem State.evalCrcBuf_presence (s : State) (n : Nat) : (s.evalCrcBuf n).presence = s.presence := rfl
@[simp] theorem State.evalCrcBuf_lineDrv (s : State) (n : Nat) : (s.evalCrcBuf n).lineDrv = s.lineDrv := rfl
@[simp] theorem State.evalCrcBuf_seq (s : State) (n : Nat) : (s.evalCrcBuf n).seq = s.seq := rfl
@[simp] theorem State.evalCrcBuf_shift (s : State) (n : Nat) : (s.evalCrcBuf n).shift = s.shift := rfl
@[simp] theorem State.evalCrcBuf_bitcnt (s : State) (n : Nat) : (s.evalCrcBuf n).bitcnt = s.bitcnt := rfl
@[simp] theorem State.evalCrcBuf_bytecnt (s : State) (n : Nat) : (s.evalCrcBuf n).bytecnt = s.bytecnt := rfl
@[simp] theorem State.evalCrcBuf_pollcnt (s : State) (n : Nat) : (s.evalCrcBuf n).pollcnt = s.pollcnt := rfl
@[simp] theorem State.evalCrcBuf_cfg (s : State) (n : Nat) : (s.evalCrcBuf n).cfg = s.cfg := rfl
@[simp] theorem State.evalCrcBuf_samples (s : State) (n : Nat) : (s.evalCrcBuf n).samples = s.samples := rfl
@[simp] theorem State.evalCrcBuf_drawn (s : State) (n : Nat) : (s.evalCrcBuf n).drawn = s.drawn := rfl
@[simp] theorem State.evalCrcBuf_bus (s : State) (n : Nat) : (s.evalCrcBuf n).bus = s.bus := rfl
@[simp] theorem State.evalCrcBuf_pins (s : State) (n : Nat) : (s.evalCrcBuf n).pins = s.pins := rfl
@[simp] theorem State.evalCrcBuf_agenda (s : State) (n : Nat) : (s.evalCrcBuf n).agenda = s.agenda := rfl
@[simp] theorem State.evalCrcBuf_readData (s : State) (n : Nat) : (s.evalCrcBuf n).readData = s.readData := rfl
@[simp] theorem State.evalCrcBuf_reads (s : State) (n : Nat) : (s.evalCrcBuf n).reads = s.reads := rfl

/-! ### `evalCrcRom`, field by field -/

@[simp] theorem State.evalCrcRom_buf (s : State) (n : Nat) : (s.evalCrcRom n).buf = s.buf := rfl
@[simp] theorem State.evalCrcRom_rom (s : State) (n : Nat) : (s.evalCrcRom n).rom = s.rom := rfl
@[simp] theorem State.evalCrcRom_rval (s : State) (n : Nat) : (s.evalCrcRom n).rval = s.rval := rfl
@[simp] theorem State.evalCrcRom_crcreg (s : State) (n : Nat) : (s.evalCrcRom n).crcreg = crc8 (s.romPrefix n) := rfl
@[simp] theorem State.evalCrcRom_cmd (s : State) (n : Nat) : (s.evalCrcRom n).cmd = s.cmd := rfl
@[simp] theorem State.evalCrcRom_result (s : State) (n : Nat) : (s.evalCrcRom n).result = s.result := rfl
@[simp] theorem State.evalCrcRom_busy (s : State) (n : Nat) : (s.evalCrcRom n).busy = s.busy := rfl
@[simp] theorem State.evalCrcRom_done (s : State) (n : Nat) : (s.evalCrcRom n).done = s.done := rfl
@[simp] theorem State.evalCrcRom_presence (s : State) (n : Nat) : (s.evalCrcRom n).presence = s.presence := rfl
@[simp] theorem State.evalCrcRom_lineDrv (s : State) (n : Nat) : (s.evalCrcRom n).lineDrv = s.lineDrv := rfl
@[simp] theorem State.evalCrcRom_seq (s : State) (n : Nat) : (s.evalCrcRom n).seq = s.seq := rfl
@[simp] theorem State.evalCrcRom_shift (s : State) (n : Nat) : (s.evalCrcRom n).shift = s.shift := rfl
@[simp] theorem State.evalCrcRom_bitcnt (s : State) (n : Nat) : (s.evalCrcRom n).bitcnt = s.bitcnt := rfl
@[simp] theorem State.evalCrcRom_bytecnt (s : State) (n : Nat) : (s.evalCrcRom n).bytecnt = s.bytecnt := rfl
@[simp] theorem State.evalCrcRom_pollcnt (s : State) (n : Nat) : (s.evalCrcRom n).pollcnt = s.pollcnt := rfl
@[simp] theorem State.evalCrcRom_cfg (s : State) (n : Nat) : (s.evalCrcRom n).cfg = s.cfg := rfl
@[simp] theorem State.evalCrcRom_samples (s : State) (n : Nat) : (s.evalCrcRom n).samples = s.samples := rfl
@[simp] theorem State.evalCrcRom_drawn (s : State) (n : Nat) : (s.evalCrcRom n).drawn = s.drawn := rfl
@[simp] theorem State.evalCrcRom_bus (s : State) (n : Nat) : (s.evalCrcRom n).bus = s.bus := rfl
@[simp] theorem State.evalCrcRom_pins (s : State) (n : Nat) : (s.evalCrcRom n).pins = s.pins := rfl
@[simp] theorem State.evalCrcRom_agenda (s : State) (n : Nat) : (s.evalCrcRom n).agenda = s.agenda := rfl
@[simp] theorem State.evalCrcRom_readData (s : State) (n : Nat) : (s.evalCrcRom n).readData = s.readData := rfl
@[simp] theorem State.evalCrcRom_reads (s : State) (n : Nat) : (s.evalCrcRom n).reads = s.reads := rfl

/-! ### `issue`, field by field -/

@[simp] theorem State.issue_buf (s : State) (w : Word) : (s.issue w).buf = s.buf := rfl
@[simp] theorem State.issue_rom (s : State) (w : Word) : (s.issue w).rom = s.rom := rfl
@[simp] theorem State.issue_rval (s : State) (w : Word) : (s.issue w).rval = s.rval := rfl
@[simp] theorem State.issue_crcreg (s : State) (w : Word) : (s.issue w).crcreg = s.crcreg := rfl
@[simp] theorem State.issue_cmd (s : State) (w : Word) : (s.issue w).cmd = w := rfl
@[simp] theorem State.issue_result (s : State) (w : Word) : (s.issue w).result = s.result := rfl
@[simp] theorem State.issue_busy (s : State) (w : Word) : (s.issue w).busy = true := rfl
@[simp] theorem State.issue_done (s : State) (w : Word) : (s.issue w).done = false := rfl
@[simp] theorem State.issue_presence (s : State) (w : Word) : (s.issue w).presence = s.presence := rfl
@[simp] theorem State.issue_lineDrv (s : State) (w : Word) : (s.issue w).lineDrv = s.lineDrv := rfl
@[simp] theorem State.issue_seq (s : State) (w : Word) : (s.issue w).seq = .issued := rfl
@[simp] theorem State.issue_shift (s : State) (w : Word) : (s.issue w).shift = s.shift := rfl
@[simp] theorem State.issue_bitcnt (s : State) (w : Word) : (s.issue w).bitcnt = s.bitcnt := rfl
@[simp] theorem State.issue_bytecnt (s : State) (w : Word) : (s.issue w).bytecnt = s.bytecnt := rfl
@[simp] theorem State.issue_pollcnt (s : State) (w : Word) : (s.issue w).pollcnt = s.pollcnt := rfl
@[simp] theorem State.issue_cfg (s : State) (w : Word) : (s.issue w).cfg = s.cfg := rfl
@[simp] theorem State.issue_samples (s : State) (w : Word) : (s.issue w).samples = s.samples := rfl
@[simp] theorem State.issue_drawn (s : State) (w : Word) : (s.issue w).drawn = s.drawn := rfl
@[simp] theorem State.issue_bus (s : State) (w : Word) : (s.issue w).bus = s.bus := rfl
@[simp] theorem State.issue_pins (s : State) (w : Word) : (s.issue w).pins = s.pins := rfl
@[simp] theorem State.issue_agenda (s : State) (w : Word) : (s.issue w).agenda = s.agenda := rfl
@[simp] theorem State.issue_readData (s : State) (w : Word) : (s.issue w).readData = s.readData := rfl
@[simp] theorem State.issue_reads (s : State) (w : Word) : (s.issue w).reads = s.reads := rfl

/-! ### `writeBuf`, field by field -/

@[simp] theorem State.writeBuf_buf (s : State) (i : Nat) (v : Byte) : (s.writeBuf i v).buf = s.buf.setIfInBounds i v := rfl
@[simp] theorem State.writeBuf_rom (s : State) (i : Nat) (v : Byte) : (s.writeBuf i v).rom = s.rom := rfl
@[simp] theorem State.writeBuf_rval (s : State) (i : Nat) (v : Byte) : (s.writeBuf i v).rval = s.rval := rfl
@[simp] theorem State.writeBuf_crcreg (s : State) (i : Nat) (v : Byte) : (s.writeBuf i v).crcreg = s.crcreg := rfl
@[simp] theorem State.writeBuf_cmd (s : State) (i : Nat) (v : Byte) : (s.writeBuf i v).cmd = s.cmd := rfl
@[simp] theorem State.writeBuf_result (s : State) (i : Nat) (v : Byte) : (s.writeBuf i v).result = s.result := rfl
@[simp] theorem State.writeBuf_busy (s : State) (i : Nat) (v : Byte) : (s.writeBuf i v).busy = s.busy := rfl
@[simp] theorem State.writeBuf_done (s : State) (i : Nat) (v : Byte) : (s.writeBuf i v).done = s.done := rfl
@[simp] theorem State.writeBuf_presence (s : State) (i : Nat) (v : Byte) : (s.writeBuf i v).presence = s.presence := rfl
@[simp] theorem State.writeBuf_lineDrv (s : State) (i : Nat) (v : Byte) : (s.writeBuf i v).lineDrv = s.lineDrv := rfl
@[simp] theorem State.writeBuf_seq (s : State) (i : Nat) (v : Byte) : (s.writeBuf i v).seq = s.seq := rfl
@[simp] theorem State.writeBuf_shift (s : State) (i : Nat) (v : Byte) : (s.writeBuf i v).shift = s.shift := rfl
@[simp] theorem State.writeBuf_bitcnt (s : State) (i : Nat) (v : Byte) : (s.writeBuf i v).bitcnt = s.bitcnt := rfl
@[simp] theorem State.writeBuf_bytecnt (s : State) (i : Nat) (v : Byte) : (s.writeBuf i v).bytecnt = s.bytecnt := rfl
@[simp] theorem State.writeBuf_pollcnt (s : State) (i : Nat) (v : Byte) : (s.writeBuf i v).pollcnt = s.pollcnt := rfl
@[simp] theorem State.writeBuf_cfg (s : State) (i : Nat) (v : Byte) : (s.writeBuf i v).cfg = s.cfg := rfl
@[simp] theorem State.writeBuf_samples (s : State) (i : Nat) (v : Byte) : (s.writeBuf i v).samples = s.samples := rfl
@[simp] theorem State.writeBuf_drawn (s : State) (i : Nat) (v : Byte) : (s.writeBuf i v).drawn = s.drawn := rfl
@[simp] theorem State.writeBuf_bus (s : State) (i : Nat) (v : Byte) : (s.writeBuf i v).bus = s.bus := rfl
@[simp] theorem State.writeBuf_pins (s : State) (i : Nat) (v : Byte) : (s.writeBuf i v).pins = s.pins := rfl
@[simp] theorem State.writeBuf_agenda (s : State) (i : Nat) (v : Byte) : (s.writeBuf i v).agenda = s.agenda := rfl
@[simp] theorem State.writeBuf_readData (s : State) (i : Nat) (v : Byte) : (s.writeBuf i v).readData = s.readData := rfl
@[simp] theorem State.writeBuf_reads (s : State) (i : Nat) (v : Byte) : (s.writeBuf i v).reads = s.reads := rfl

end Sys2Proof.Machine
end

