-- ==== Sys2Proof/Laws/Bytes.lean ====
section
/-! SUPPORT. Running sequences of statements: composition, and the closed form of each byte and block. -/

namespace Sys2Proof.Machine

/-! ### Samples to come -/

theorem State.level_of_drawn {s t : State} {n : Nat} (hs : t.samples = s.samples) (hd : t.drawn = s.drawn + n)
    (k : Nat) : t.level k = s.level (k + n) := by
  simp only [State.level, State.levelAt, hs, hd]
  rw [show s.drawn + n + k = s.drawn + (k + n) by omega]

theorem State.level_of_same {s t : State} (hs : t.samples = s.samples) (hd : t.drawn = s.drawn) (k : Nat) :
    t.level k = s.level k := State.level_of_drawn (n := 0) hs hd k

theorem State.byteAt_of_drawn {s t : State} {n : Nat} (hs : t.samples = s.samples) (hd : t.drawn = s.drawn + n)
    (k : Nat) : t.byteAt k = s.byteAt (k + n) := by
  simp only [State.byteAt, State.bitAt, State.level_of_drawn hs hd, Nat.add_right_comm k _ n]

theorem State.readEvents_of_drawn {s t : State} {n : Nat} (hs : t.samples = s.samples) (hd : t.drawn = s.drawn + n)
    (k m : Nat) : t.readEvents k m = s.readEvents (k + n) m := by
  simp only [State.readEvents, State.level_of_drawn hs hd, Nat.add_right_comm k _ n]

theorem State.readEvents_add (s : State) (k m n : Nat) :
    s.readEvents k (m + n) = s.readEvents k m ++ s.readEvents (k + m) n := by
  simp [State.readEvents, List.range_add, Nat.add_assoc, Function.comp_def]

/-! ### The samples to come after a slot -/

@[simp] theorem State.resetSlot_level (s : State) (k : Nat) : (s.resetSlot).level k = s.level (k + 1) :=
  State.level_of_drawn (n := 1) (by simp) (by simp) k

@[simp] theorem State.resetSlot_byteAt (s : State) (k : Nat) : (s.resetSlot).byteAt k = s.byteAt (k + 1) :=
  State.byteAt_of_drawn (n := 1) (by simp) (by simp) k

@[simp] theorem State.resetSlot_readEvents (s : State) (k m : Nat) : (s.resetSlot).readEvents k m = s.readEvents (k + 1) m :=
  State.readEvents_of_drawn (n := 1) (by simp) (by simp) k m

@[simp] theorem State.readBit_level (s : State) (k : Nat) : (s.readBit).level k = s.level (k + 1) :=
  State.level_of_drawn (n := 1) (by simp) (by simp) k

@[simp] theorem State.readBit_byteAt (s : State) (k : Nat) : (s.readBit).byteAt k = s.byteAt (k + 1) :=
  State.byteAt_of_drawn (n := 1) (by simp) (by simp) k

@[simp] theorem State.readBit_readEvents (s : State) (k m : Nat) : (s.readBit).readEvents k m = s.readEvents (k + 1) m :=
  State.readEvents_of_drawn (n := 1) (by simp) (by simp) k m

@[simp] theorem State.writeBit_level (s : State) (b : Bool) (k : Nat) : (s.writeBit b).level k = s.level k :=
  State.level_of_drawn (n := 0) (by simp) (by simp) k

@[simp] theorem State.writeBit_byteAt (s : State) (b : Bool) (k : Nat) : (s.writeBit b).byteAt k = s.byteAt k :=
  State.byteAt_of_drawn (n := 0) (by simp) (by simp) k

@[simp] theorem State.writeBit_readEvents (s : State) (b : Bool) (k m : Nat) : (s.writeBit b).readEvents k m = s.readEvents k m :=
  State.readEvents_of_drawn (n := 0) (by simp) (by simp) k m

/-! ### Composition -/

theorem runSeq_append (a b : List Stmt) (s : State) :
    runSeq (a ++ b) s = match runSeq a s with
      | (.go, s') => runSeq b s'
      | r => r := by
  induction a generalizing s with
  | nil => rfl
  | cons m ms ih =>
    simp only [List.cons_append, runSeq]
    rcases h : doStmt m s with ⟨f, s'⟩
    cases f <;> simp [ih]

theorem runSeq_append_go {a b : List Stmt} {s s' : State} (h : runSeq a s = (.go, s')) :
    runSeq (a ++ b) s = runSeq b s' := by rw [runSeq_append, h]

theorem runSeq_append_fail {a b : List Stmt} {s s' : State} {c : ResultCode} (h : runSeq a s = (.fail c, s')) :
    runSeq (a ++ b) s = (.fail c, s') := by rw [runSeq_append, h]

/-! ### One byte -/

/-- The state after `WriteByte(x)`. -/
def State.wrote (s : State) (x : Byte) : State := { s with
  shift := x, bitcnt := 8, lineDrv := false
  bus := s.bus ++ wb x, pins := s.pins ++ (wb x).flatMap (slotPins s.cfg) }

/-- The state after `ReadByte()`. -/
def State.received (s : State) : State := { s with
  shift := s.byteAt 0, bitcnt := 8, lineDrv := false, drawn := s.drawn + 8
  bus := s.bus ++ s.readEvents 0 8, pins := s.pins ++ (s.readEvents 0 8).flatMap (slotPins s.cfg) }

/-! ### `wrote` and `received`, field by field -/

@[simp] theorem State.wrote_buf (s : State) (x : Byte) : (s.wrote x).buf = s.buf := rfl
@[simp] theorem State.wrote_rom (s : State) (x : Byte) : (s.wrote x).rom = s.rom := rfl
@[simp] theorem State.wrote_rval (s : State) (x : Byte) : (s.wrote x).rval = s.rval := rfl
@[simp] theorem State.wrote_crcreg (s : State) (x : Byte) : (s.wrote x).crcreg = s.crcreg := rfl
@[simp] theorem State.wrote_cmd (s : State) (x : Byte) : (s.wrote x).cmd = s.cmd := rfl
@[simp] theorem State.wrote_result (s : State) (x : Byte) : (s.wrote x).result = s.result := rfl
@[simp] theorem State.wrote_busy (s : State) (x : Byte) : (s.wrote x).busy = s.busy := rfl
@[simp] theorem State.wrote_done (s : State) (x : Byte) : (s.wrote x).done = s.done := rfl
@[simp] theorem State.wrote_presence (s : State) (x : Byte) : (s.wrote x).presence = s.presence := rfl
@[simp] theorem State.wrote_lineDrv (s : State) (x : Byte) : (s.wrote x).lineDrv = false := rfl
@[simp] theorem State.wrote_seq (s : State) (x : Byte) : (s.wrote x).seq = s.seq := rfl
@[simp] theorem State.wrote_shift (s : State) (x : Byte) : (s.wrote x).shift = x := rfl
@[simp] theorem State.wrote_bitcnt (s : State) (x : Byte) : (s.wrote x).bitcnt = 8 := rfl
@[simp] theorem State.wrote_bytecnt (s : State) (x : Byte) : (s.wrote x).bytecnt = s.bytecnt := rfl
@[simp] theorem State.wrote_pollcnt (s : State) (x : Byte) : (s.wrote x).pollcnt = s.pollcnt := rfl
@[simp] theorem State.wrote_cfg (s : State) (x : Byte) : (s.wrote x).cfg = s.cfg := rfl
@[simp] theorem State.wrote_samples (s : State) (x : Byte) : (s.wrote x).samples = s.samples := rfl
@[simp] theorem State.wrote_drawn (s : State) (x : Byte) : (s.wrote x).drawn = s.drawn := rfl
@[simp] theorem State.wrote_bus (s : State) (x : Byte) : (s.wrote x).bus = s.bus ++ wb x := rfl
@[simp] theorem State.wrote_pins (s : State) (x : Byte) : (s.wrote x).pins = s.pins ++ (wb x).flatMap (slotPins s.cfg) := rfl
@[simp] theorem State.wrote_agenda (s : State) (x : Byte) : (s.wrote x).agenda = s.agenda := rfl
@[simp] theorem State.wrote_readData (s : State) (x : Byte) : (s.wrote x).readData = s.readData := rfl
@[simp] theorem State.wrote_reads (s : State) (x : Byte) : (s.wrote x).reads = s.reads := rfl
@[simp] theorem State.wrote_level (s : State) (x : Byte) (k : Nat) : (s.wrote x).level k = s.level k :=
  State.level_of_drawn (s := s) (n := 0) (by simp) (by simp) k
@[simp] theorem State.wrote_byteAt (s : State) (x : Byte) (k : Nat) : (s.wrote x).byteAt k = s.byteAt k :=
  State.byteAt_of_drawn (s := s) (n := 0) (by simp) (by simp) k
@[simp] theorem State.wrote_readEvents (s : State) (x : Byte) (k m : Nat) :
    (s.wrote x).readEvents k m = s.readEvents k m := State.readEvents_of_drawn (s := s) (n := 0) (by simp) (by simp) k m

@[simp] theorem State.received_buf (s : State) : (s.received).buf = s.buf := rfl
@[simp] theorem State.received_rom (s : State) : (s.received).rom = s.rom := rfl
@[simp] theorem State.received_rval (s : State) : (s.received).rval = s.rval := rfl
@[simp] theorem State.received_crcreg (s : State) : (s.received).crcreg = s.crcreg := rfl
@[simp] theorem State.received_cmd (s : State) : (s.received).cmd = s.cmd := rfl
@[simp] theorem State.received_result (s : State) : (s.received).result = s.result := rfl
@[simp] theorem State.received_busy (s : State) : (s.received).busy = s.busy := rfl
@[simp] theorem State.received_done (s : State) : (s.received).done = s.done := rfl
@[simp] theorem State.received_presence (s : State) : (s.received).presence = s.presence := rfl
@[simp] theorem State.received_lineDrv (s : State) : (s.received).lineDrv = false := rfl
@[simp] theorem State.received_seq (s : State) : (s.received).seq = s.seq := rfl
@[simp] theorem State.received_shift (s : State) : (s.received).shift = s.byteAt 0 := rfl
@[simp] theorem State.received_bitcnt (s : State) : (s.received).bitcnt = 8 := rfl
@[simp] theorem State.received_bytecnt (s : State) : (s.received).bytecnt = s.bytecnt := rfl
@[simp] theorem State.received_pollcnt (s : State) : (s.received).pollcnt = s.pollcnt := rfl
@[simp] theorem State.received_cfg (s : State) : (s.received).cfg = s.cfg := rfl
@[simp] theorem State.received_samples (s : State) : (s.received).samples = s.samples := rfl
@[simp] theorem State.received_drawn (s : State) : (s.received).drawn = s.drawn + 8 := rfl
@[simp] theorem State.received_bus (s : State) : (s.received).bus = s.bus ++ s.readEvents 0 8 := rfl
@[simp] theorem State.received_pins (s : State) : (s.received).pins = s.pins ++ (s.readEvents 0 8).flatMap (slotPins s.cfg) := rfl
@[simp] theorem State.received_agenda (s : State) : (s.received).agenda = s.agenda := rfl
@[simp] theorem State.received_readData (s : State) : (s.received).readData = s.readData := rfl
@[simp] theorem State.received_reads (s : State) : (s.received).reads = s.reads := rfl
@[simp] theorem State.received_level (s : State) (k : Nat) : (s.received).level k = s.level (k + 8) :=
  State.level_of_drawn (s := s) (n := 8) (by simp) (by simp) k
@[simp] theorem State.received_byteAt (s : State) (k : Nat) : (s.received).byteAt k = s.byteAt (k + 8) :=
  State.byteAt_of_drawn (s := s) (n := 8) (by simp) (by simp) k
@[simp] theorem State.received_readEvents (s : State) (k m : Nat) :
    (s.received).readEvents k m = s.readEvents (k + 8) m := State.readEvents_of_drawn (s := s) (n := 8) (by simp) (by simp) k m

theorem runSeq_writeByteSeq (x : Byte) (s : State) : runSeq (writeByteSeq x) s = (.go, s.wrote x) := by
  simp [writeByteSeq, List.replicate, runSeq, doStmt, State.sendBit, State.writeBit_eq, State.shiftBit, State.wrote, wb]

theorem runSeq_writeBufSeq (s : State) : runSeq writeBufSeq s = (.go, s.wrote s.bufAtByteCount) := by
  simp [writeBufSeq, List.replicate, runSeq, doStmt, State.sendBit, State.writeBit_eq, State.shiftBit, State.wrote, wb]

/-- Assembling eight bits one at a time gives the byte with these bits. -/
theorem setBit_chain (b0 b1 b2 b3 b4 b5 b6 b7 : Bool) :
    setBit (setBit (setBit (setBit (setBit (setBit (setBit (setBit 0 0 b0) 1 b1) 2 b2) 3 b3) 4 b4) 5 b5) 6 b6) 7 b7
      = byteOfBits b0 b1 b2 b3 b4 b5 b6 b7 := by
  revert b0 b1 b2 b3 b4 b5 b6 b7; decide

theorem runSeq_readByteSeq (s : State) : runSeq readByteSeq s = (.go, s.received) := by
  simp [readByteSeq, List.replicate, runSeq, doStmt, State.recvBit, State.readBit_eq, State.received,
    State.readEvents, List.range_succ, State.byteAt, State.bitAt, ← setBit_chain, State.level, State.levelAt, Nat.add_assoc]

end Sys2Proof.Machine
end

