-- ==== Sys2Proof/Laws/Blocks.lean ====
section
/-! SUPPORT. The closed form of each block of bytes: a page or a ROM received, a page sent. -/

namespace Sys2Proof.Machine

/-! ### Blocks received -/

/-- One turn of the page loop: a byte into BUF[BYTECNT]. -/
def State.receivedBuf (s : State) : State :=
  { s.received with buf := s.buf.setIfInBounds s.bytecnt.toNat (s.byteAt 0), bytecnt := s.bytecnt + 1 }

/-- One turn of the ROM loop: a byte into ROM[BYTECNT]. -/
def State.receivedRom (s : State) : State :=
  { s.received with rom := s.rom.setIfInBounds s.bytecnt.toNat (s.byteAt 0), bytecnt := s.bytecnt + 1 }

/-- One turn of the sending loop: the byte BUF[BYTECNT] sent. -/
def State.sentBuf (s : State) : State := { s.wrote s.bufAtByteCount with bytecnt := s.bytecnt + 1 }

@[simp] theorem State.receivedBuf_buf (s : State) : (s.receivedBuf).buf = s.buf.setIfInBounds s.bytecnt.toNat (s.byteAt 0) := rfl
@[simp] theorem State.receivedBuf_rom (s : State) : (s.receivedBuf).rom = s.rom := rfl
@[simp] theorem State.receivedBuf_rval (s : State) : (s.receivedBuf).rval = s.rval := rfl
@[simp] theorem State.receivedBuf_crcreg (s : State) : (s.receivedBuf).crcreg = s.crcreg := rfl
@[simp] theorem State.receivedBuf_cmd (s : State) : (s.receivedBuf).cmd = s.cmd := rfl
@[simp] theorem State.receivedBuf_result (s : State) : (s.receivedBuf).result = s.result := rfl
@[simp] theorem State.receivedBuf_busy (s : State) : (s.receivedBuf).busy = s.busy := rfl
@[simp] theorem State.receivedBuf_done (s : State) : (s.receivedBuf).done = s.done := rfl
@[simp] theorem State.receivedBuf_presence (s : State) : (s.receivedBuf).presence = s.presence := rfl
@[simp] theorem State.receivedBuf_lineDrv (s : State) : (s.receivedBuf).lineDrv = false := rfl
@[simp] theorem State.receivedBuf_seq (s : State) : (s.receivedBuf).seq = s.seq := rfl
@[simp] theorem State.receivedBuf_shift (s : State) : (s.receivedBuf).shift = s.byteAt 0 := rfl
@[simp] theorem State.receivedBuf_bitcnt (s : State) : (s.receivedBuf).bitcnt = 8 := rfl
@[simp] theorem State.receivedBuf_bytecnt (s : State) : (s.receivedBuf).bytecnt = s.bytecnt + 1 := rfl
@[simp] theorem State.receivedBuf_pollcnt (s : State) : (s.receivedBuf).pollcnt = s.pollcnt := rfl
@[simp] theorem State.receivedBuf_cfg (s : State) : (s.receivedBuf).cfg = s.cfg := rfl
@[simp] theorem State.receivedBuf_samples (s : State) : (s.receivedBuf).samples = s.samples := rfl
@[simp] theorem State.receivedBuf_drawn (s : State) : (s.receivedBuf).drawn = s.drawn + 8 := rfl
@[simp] theorem State.receivedBuf_bus (s : State) : (s.receivedBuf).bus = s.bus ++ s.readEvents 0 8 := rfl
@[simp] theorem State.receivedBuf_pins (s : State) : (s.receivedBuf).pins = s.pins ++ (s.readEvents 0 8).flatMap (slotPins s.cfg) := rfl
@[simp] theorem State.receivedBuf_agenda (s : State) : (s.receivedBuf).agenda = s.agenda := rfl
@[simp] theorem State.receivedBuf_readData (s : State) : (s.receivedBuf).readData = s.readData := rfl
@[simp] theorem State.receivedBuf_reads (s : State) : (s.receivedBuf).reads = s.reads := rfl
@[simp] theorem State.receivedBuf_level (s : State) (k : Nat) : (s.receivedBuf).level k = s.level (k + 8) :=
  State.level_of_drawn (s := s) (n := 8) (by simp) (by simp) k
@[simp] theorem State.receivedBuf_byteAt (s : State) (k : Nat) : (s.receivedBuf).byteAt k = s.byteAt (k + 8) :=
  State.byteAt_of_drawn (s := s) (n := 8) (by simp) (by simp) k
@[simp] theorem State.receivedBuf_readEvents (s : State) (k m : Nat) :
    (s.receivedBuf).readEvents k m = s.readEvents (k + 8) m := State.readEvents_of_drawn (s := s) (n := 8) (by simp) (by simp) k m

@[simp] theorem State.receivedRom_buf (s : State) : (s.receivedRom).buf = s.buf := rfl
@[simp] theorem State.receivedRom_rom (s : State) : (s.receivedRom).rom = s.rom.setIfInBounds s.bytecnt.toNat (s.byteAt 0) := rfl
@[simp] theorem State.receivedRom_rval (s : State) : (s.receivedRom).rval = s.rval := rfl
@[simp] theorem State.receivedRom_crcreg (s : State) : (s.receivedRom).crcreg = s.crcreg := rfl
@[simp] theorem State.receivedRom_cmd (s : State) : (s.receivedRom).cmd = s.cmd := rfl
@[simp] theorem State.receivedRom_result (s : State) : (s.receivedRom).result = s.result := rfl
@[simp] theorem State.receivedRom_busy (s : State) : (s.receivedRom).busy = s.busy := rfl
@[simp] theorem State.receivedRom_done (s : State) : (s.receivedRom).done = s.done := rfl
@[simp] theorem State.receivedRom_presence (s : State) : (s.receivedRom).presence = s.presence := rfl
@[simp] theorem State.receivedRom_lineDrv (s : State) : (s.receivedRom).lineDrv = false := rfl
@[simp] theorem State.receivedRom_seq (s : State) : (s.receivedRom).seq = s.seq := rfl
@[simp] theorem State.receivedRom_shift (s : State) : (s.receivedRom).shift = s.byteAt 0 := rfl
@[simp] theorem State.receivedRom_bitcnt (s : State) : (s.receivedRom).bitcnt = 8 := rfl
@[simp] theorem State.receivedRom_bytecnt (s : State) : (s.receivedRom).bytecnt = s.bytecnt + 1 := rfl
@[simp] theorem State.receivedRom_pollcnt (s : State) : (s.receivedRom).pollcnt = s.pollcnt := rfl
@[simp] theorem State.receivedRom_cfg (s : State) : (s.receivedRom).cfg = s.cfg := rfl
@[simp] theorem State.receivedRom_samples (s : State) : (s.receivedRom).samples = s.samples := rfl
@[simp] theorem State.receivedRom_drawn (s : State) : (s.receivedRom).drawn = s.drawn + 8 := rfl
@[simp] theorem State.receivedRom_bus (s : State) : (s.receivedRom).bus = s.bus ++ s.readEvents 0 8 := rfl
@[simp] theorem State.receivedRom_pins (s : State) : (s.receivedRom).pins = s.pins ++ (s.readEvents 0 8).flatMap (slotPins s.cfg) := rfl
@[simp] theorem State.receivedRom_agenda (s : State) : (s.receivedRom).agenda = s.agenda := rfl
@[simp] theorem State.receivedRom_readData (s : State) : (s.receivedRom).readData = s.readData := rfl
@[simp] theorem State.receivedRom_reads (s : State) : (s.receivedRom).reads = s.reads := rfl
@[simp] theorem State.receivedRom_level (s : State) (k : Nat) : (s.receivedRom).level k = s.level (k + 8) :=
  State.level_of_drawn (s := s) (n := 8) (by simp) (by simp) k
@[simp] theorem State.receivedRom_byteAt (s : State) (k : Nat) : (s.receivedRom).byteAt k = s.byteAt (k + 8) :=
  State.byteAt_of_drawn (s := s) (n := 8) (by simp) (by simp) k
@[simp] theorem State.receivedRom_readEvents (s : State) (k m : Nat) :
    (s.receivedRom).readEvents k m = s.readEvents (k + 8) m := State.readEvents_of_drawn (s := s) (n := 8) (by simp) (by simp) k m

@[simp] theorem State.sentBuf_buf (s : State) : (s.sentBuf).buf = s.buf := rfl
@[simp] theorem State.sentBuf_rom (s : State) : (s.sentBuf).rom = s.rom := rfl
@[simp] theorem State.sentBuf_rval (s : State) : (s.sentBuf).rval = s.rval := rfl
@[simp] theorem State.sentBuf_crcreg (s : State) : (s.sentBuf).crcreg = s.crcreg := rfl
@[simp] theorem State.sentBuf_cmd (s : State) : (s.sentBuf).cmd = s.cmd := rfl
@[simp] theorem State.sentBuf_result (s : State) : (s.sentBuf).result = s.result := rfl
@[simp] theorem State.sentBuf_busy (s : State) : (s.sentBuf).busy = s.busy := rfl
@[simp] theorem State.sentBuf_done (s : State) : (s.sentBuf).done = s.done := rfl
@[simp] theorem State.sentBuf_presence (s : State) : (s.sentBuf).presence = s.presence := rfl
@[simp] theorem State.sentBuf_lineDrv (s : State) : (s.sentBuf).lineDrv = false := rfl
@[simp] theorem State.sentBuf_seq (s : State) : (s.sentBuf).seq = s.seq := rfl
@[simp] theorem State.sentBuf_shift (s : State) : (s.sentBuf).shift = s.bufAtByteCount := rfl
@[simp] theorem State.sentBuf_bitcnt (s : State) : (s.sentBuf).bitcnt = 8 := rfl
@[simp] theorem State.sentBuf_bytecnt (s : State) : (s.sentBuf).bytecnt = s.bytecnt + 1 := rfl
@[simp] theorem State.sentBuf_pollcnt (s : State) : (s.sentBuf).pollcnt = s.pollcnt := rfl
@[simp] theorem State.sentBuf_cfg (s : State) : (s.sentBuf).cfg = s.cfg := rfl
@[simp] theorem State.sentBuf_samples (s : State) : (s.sentBuf).samples = s.samples := rfl
@[simp] theorem State.sentBuf_drawn (s : State) : (s.sentBuf).drawn = s.drawn := rfl
@[simp] theorem State.sentBuf_bus (s : State) : (s.sentBuf).bus = s.bus ++ wb s.bufAtByteCount := rfl
@[simp] theorem State.sentBuf_pins (s : State) : (s.sentBuf).pins = s.pins ++ (wb s.bufAtByteCount).flatMap (slotPins s.cfg) := rfl
@[simp] theorem State.sentBuf_agenda (s : State) : (s.sentBuf).agenda = s.agenda := rfl
@[simp] theorem State.sentBuf_readData (s : State) : (s.sentBuf).readData = s.readData := rfl
@[simp] theorem State.sentBuf_reads (s : State) : (s.sentBuf).reads = s.reads := rfl
@[simp] theorem State.sentBuf_level (s : State) (k : Nat) : (s.sentBuf).level k = s.level k :=
  State.level_of_drawn (s := s) (n := 0) (by simp) (by simp) k
@[simp] theorem State.sentBuf_byteAt (s : State) (k : Nat) : (s.sentBuf).byteAt k = s.byteAt k :=
  State.byteAt_of_drawn (s := s) (n := 0) (by simp) (by simp) k
@[simp] theorem State.sentBuf_readEvents (s : State) (k m : Nat) :
    (s.sentBuf).readEvents k m = s.readEvents k m := State.readEvents_of_drawn (s := s) (n := 0) (by simp) (by simp) k m

theorem runSeq_receiveBuf (s : State) : runSeq (readByteSeq ++ [.storeBuf]) s = (.go, s.receivedBuf) := by
  rw [runSeq_append_go (runSeq_readByteSeq s)]
  simp [runSeq, doStmt, State.received, State.receivedBuf]

theorem runSeq_receiveRom (s : State) : runSeq (readByteSeq ++ [.storeRom]) s = (.go, s.receivedRom) := by
  rw [runSeq_append_go (runSeq_readByteSeq s)]
  simp [runSeq, doStmt, State.received, State.receivedRom]

theorem runSeq_sendBuf (s : State) : runSeq (writeBufSeq ++ [.nextByte]) s = (.go, s.sentBuf) := by
  rw [runSeq_append_go (runSeq_writeBufSeq s)]
  simp [runSeq, doStmt, State.wrote, State.sentBuf]

/-- `f` n times. -/
def iterateState (f : State → State) : Nat → State → State
  | 0, s => s
  | n + 1, s => iterateState f n (f s)

theorem runSeq_repeatSeq {body : List Stmt} {f : State → State} (h : ∀ s, runSeq body s = (.go, f s)) (n : Nat)
    (s : State) : runSeq (repeatSeq n body) s = (.go, iterateState f n s) := by
  induction n generalizing s with
  | zero => rfl
  | succ n ih =>
    rw [repeatSeq, List.replicate_succ, List.flatten_cons, runSeq_append_go (h s)]
    exact ih (f s)

/-- The state after a page block received. -/
def State.receivedPage (s : State) : State := { s with
  buf := s.pageAt 0, bytecnt := 9, shift := s.byteAt 64, bitcnt := 8, lineDrv := false, drawn := s.drawn + 72
  bus := s.bus ++ s.readEvents 0 72, pins := s.pins ++ (s.readEvents 0 72).flatMap (slotPins s.cfg) }

/-- The state after a ROM block received. -/
def State.receivedRomBlock (s : State) : State := { s with
  rom := s.romAt 0, bytecnt := 8, shift := s.byteAt 56, bitcnt := 8, lineDrv := false, drawn := s.drawn + 64
  bus := s.bus ++ s.readEvents 0 64, pins := s.pins ++ (s.readEvents 0 64).flatMap (slotPins s.cfg) }

/-- The state after the nine bytes of BUF sent. -/
def State.sentPage (s : State) : State := { s with
  bytecnt := 9, shift := s.buf[8], bitcnt := 8, lineDrv := false
  bus := s.bus ++ bufEvents s.buf, pins := s.pins ++ (bufEvents s.buf).flatMap (slotPins s.cfg) }

theorem readEvents_72 (s : State) : s.readEvents 0 72 = s.readEvents 0 8 ++ (s.readEvents 8 8 ++ (s.readEvents 16 8 ++
    (s.readEvents 24 8 ++ (s.readEvents 32 8 ++ (s.readEvents 40 8 ++ (s.readEvents 48 8 ++ (s.readEvents 56 8 ++
    s.readEvents 64 8))))))) := by
  simp [State.readEvents, List.range_succ]

theorem readEvents_64 (s : State) : s.readEvents 0 64 = s.readEvents 0 8 ++ (s.readEvents 8 8 ++ (s.readEvents 16 8 ++
    (s.readEvents 24 8 ++ (s.readEvents 32 8 ++ (s.readEvents 40 8 ++ (s.readEvents 48 8 ++ s.readEvents 56 8)))))) := by
  simp [State.readEvents, List.range_succ]

theorem vector9_filled (v : Vector Byte 9) (a b c d e f g h i : Byte) :
    ((((((((v.setIfInBounds 0 a).setIfInBounds 1 b).setIfInBounds 2 c).setIfInBounds 3 d).setIfInBounds 4 e).setIfInBounds
      5 f).setIfInBounds 6 g).setIfInBounds 7 h).setIfInBounds 8 i = #v[a, b, c, d, e, f, g, h, i] := by
  ext j hj
  have : j = 0 ∨ j = 1 ∨ j = 2 ∨ j = 3 ∨ j = 4 ∨ j = 5 ∨ j = 6 ∨ j = 7 ∨ j = 8 := by omega
  rcases this with h | h | h | h | h | h | h | h | h <;> subst h <;> simp

theorem vector8_filled (v : Vector Byte 8) (a b c d e f g h : Byte) :
    (((((((v.setIfInBounds 0 a).setIfInBounds 1 b).setIfInBounds 2 c).setIfInBounds 3 d).setIfInBounds 4 e).setIfInBounds
      5 f).setIfInBounds 6 g).setIfInBounds 7 h = #v[a, b, c, d, e, f, g, h] := by
  ext j hj
  have : j = 0 ∨ j = 1 ∨ j = 2 ∨ j = 3 ∨ j = 4 ∨ j = 5 ∨ j = 6 ∨ j = 7 := by omega
  rcases this with h | h | h | h | h | h | h | h <;> subst h <;> simp

theorem receivedBuf_nine {s : State} (h : s.bytecnt = 0) : iterateState State.receivedBuf 9 s = s.receivedPage := by
  apply State.ext <;>
    simp [iterateState, State.receivedPage, readEvents_72, State.pageAt, vector9_filled, h, Nat.add_assoc]

theorem receivedRom_eight {s : State} (h : s.bytecnt = 0) :
    iterateState State.receivedRom 8 s = s.receivedRomBlock := by
  apply State.ext <;>
    simp [iterateState, State.receivedRomBlock, readEvents_64, State.romAt, vector8_filled, h, Nat.add_assoc]

theorem sentBuf_nine {s : State} (h : s.bytecnt = 0) : iterateState State.sentBuf 9 s = s.sentPage := by
  apply State.ext <;> simp [iterateState, State.sentPage, State.bufAtByteCount, bufEvents, h]

/-- `for k = 0 .. 8: BUF[k] <- ReadByte()`. -/
theorem runSeq_receivePageSeq (s : State) : runSeq receivePageSeq s = (.go, s.receivedPage) := by
  rw [receivePageSeq, runSeq, doStmt]
  exact (runSeq_repeatSeq runSeq_receiveBuf 9 _).trans (by rw [receivedBuf_nine rfl]; rfl)

/-- `for k = 0 .. 7: ROM[k] <- ReadByte()`. -/
theorem runSeq_receiveRomSeq (s : State) : runSeq receiveRomSeq s = (.go, s.receivedRomBlock) := by
  rw [receiveRomSeq, runSeq, doStmt]
  exact (runSeq_repeatSeq runSeq_receiveRom 8 _).trans (by rw [receivedRom_eight rfl]; rfl)

/-- `for k = 0 .. 8: WriteByte(BUF[k])`. -/
theorem runSeq_sendPageSeq (s : State) : runSeq sendPageSeq s = (.go, s.sentPage) := by
  rw [sendPageSeq, runSeq, doStmt]
  exact (runSeq_repeatSeq runSeq_sendBuf 9 _).trans (by rw [sentBuf_nine rfl]; rfl)

end Sys2Proof.Machine
end

