-- ==== Sys2Proof/Laws/Crc.lean ====
section
/-! SUPPORT. The closed form of a CRC evaluation run bit by bit (10_state.md R24, 40_crc8.md R121). -/

namespace Sys2Proof.Machine

/-- The state after the eight bit steps of one byte `x`. -/
def State.crcByteDone (s : State) (x : Byte) : State := { s with crcreg := crcByte s.crcreg x }

theorem crcFrom_append (c : Byte) (xs ys : List Byte) : crcFrom c (xs ++ ys) = crcFrom (crcFrom c xs) ys := by
  induction xs generalizing c with
  | nil => rfl
  | cons x xs ih => exact ih _

theorem runSeq_crcByte (src : CrcSource) (k : Nat) (s : State) :
    runSeq ((List.range 8).map fun i => .crcBit src k i) s = (.go, s.crcByteDone (s.crcData src k)) := by
  cases src <;> rfl

/-- After `n` bytes CRCREG holds the CRC of these bytes. -/
theorem runSeq_crcSeq_data (src : CrcSource) (n : Nat) (s : State) :
    runSeq (crcSeq src n) s = (.go, { s with crcreg := crc8 ((List.range n).map (s.crcData src)) }) := by
  induction n with
  | zero => rfl
  | succ n ih =>
    have hseq : crcSeq src (n + 1) = crcSeq src n ++ (List.range 8).map fun i => .crcBit src n i := by
      simp only [crcSeq, List.range_succ (n := n), List.flatMap_append, List.flatMap_singleton, List.cons_append]
    have hcrc : crc8 ((List.range (n + 1)).map (s.crcData src)) =
        crcByte (crc8 ((List.range n).map (s.crcData src))) (s.crcData src n) := by
      rw [List.range_succ, List.map_append, crc8, crcFrom_append]; rfl
    rw [hseq, runSeq_append_go ih, runSeq_crcByte, hcrc]
    cases src <;> rfl

/-- `crc8(BUF[0..n-1])`. -/
theorem runSeq_crcSeq_buf {n : Nat} (hn : n ≤ 9) (k : List Stmt) (s : State) :
    runSeq (crcSeq .buf n ++ k) s = runSeq k (s.evalCrcBuf n) := by
  have h : (List.range n).map (s.crcData .buf) = s.bufPrefix n := by
    apply List.ext_getElem
    · simp [State.bufPrefix]; omega
    · intro i h1 h2
      simp at h1
      simp [State.bufPrefix, State.crcData, show i < 9 by omega]
  rw [runSeq_append_go (runSeq_crcSeq_data .buf n s), h]; rfl

/-- `crc8(ROM[0..n-1])`. -/
theorem runSeq_crcSeq_rom {n : Nat} (hn : n ≤ 8) (k : List Stmt) (s : State) :
    runSeq (crcSeq .rom n ++ k) s = runSeq k (s.evalCrcRom n) := by
  have h : (List.range n).map (s.crcData .rom) = s.romPrefix n := by
    apply List.ext_getElem
    · simp [State.romPrefix]; omega
    · intro i h1 h2
      simp at h1
      simp [State.romPrefix, State.crcData, show i < 8 by omega]
  rw [runSeq_append_go (runSeq_crcSeq_data .rom n s), h]; rfl

end Sys2Proof.Machine
end

