-- ==== Sys2Proof/Laws/Frames.lean ====
section
/-! SUPPORT. Everything each frame and each shared transaction can do: the closed form of `romRead`, `startConversion`,
`pageRead`, `pageWrite`, `pageReadChecked`, `hasData` and `setStatusBit`. Callers cite these and never unfold a sequence. -/

namespace Sys2Proof.Machine

/-! ### The reset at the head of a frame (42_transactions.md R150) -/

theorem runSeq_reset_low {s : State} (h : s.level 0 = .low) (k : List Stmt) :
    runSeq (.reset :: k) s = runSeq k s.resetSlot := by simp [runSeq, doStmt, h]

theorem runSeq_reset_high {s : State} (h : s.level 0 = .high) (k : List Stmt) :
    runSeq (.reset :: k) s = (.fail .deviceNotFound, s.resetSlot) := by simp [runSeq, doStmt, h]

theorem runSeq_param_true (k : List Stmt) (s : State) : runSeq (.param true :: k) s = runSeq k s := by
  simp [runSeq, doStmt]

theorem runSeq_param_false (k : List Stmt) (s : State) : runSeq (.param false :: k) s = (.fail .badParam, s) := by
  simp [runSeq, doStmt]

/-- The level of a sample is low or high. -/
theorem Level.low_or_high (l : Level) : l = .low ∨ l = .high := by cases l <;> simp

/-! ### Function frames -/

/-- The state after `Reset, WB(0xCC), WB(command)` with presence detected. -/
def State.commanded (s : State) (command : Byte) : State := (s.resetSlot.wrote 0xCC).wrote command

/-- The state after `Reset, WB(0xCC), WB(command), WB(page)` with presence detected. -/
def State.framed (s : State) (command page : Byte) : State := (s.commanded command).wrote page

theorem runSeq_functionFrame (command : Byte) (k : List Stmt) (s : State) :
    runSeq (functionFrame command ++ k) s =
      if s.level 0 = .low then runSeq k (s.commanded command) else (.fail .deviceNotFound, s.resetSlot) := by
  rcases Level.low_or_high (s.level 0) with h | h
  · rw [if_pos h, functionFrame, List.cons_append, runSeq_reset_low h, List.append_assoc,
      runSeq_append_go (runSeq_writeByteSeq 0xCC s.resetSlot), runSeq_append_go (runSeq_writeByteSeq command _)]
    rfl
  · rw [if_neg (by simp [h]), functionFrame, List.cons_append, runSeq_reset_high h]

theorem runSeq_pageFrame (command page : Byte) (k : List Stmt) (s : State) :
    runSeq (pageFrame command page ++ k) s =
      if s.level 0 = .low then runSeq k (s.framed command page) else (.fail .deviceNotFound, s.resetSlot) := by
  rw [pageFrame, List.append_assoc, runSeq_functionFrame]
  split
  · rw [runSeq_append_go (runSeq_writeByteSeq page _)]; rfl
  · rfl

/-! ### Conversions (R154, R155) -/

/-- The wire command of a conversion (30_encoding.md R97). -/
def Poll.command : Poll → Byte
  | .voltage => 0xB4
  | .temperature => 0x44

theorem runSeq_startConversion (q : Poll) (k : List Stmt) (s : State) :
    runSeq (startConversion q ++ k) s =
      if s.level 0 = .low then runSeq k (s.commanded q.command) else (.fail .deviceNotFound, s.resetSlot) := by
  cases q <;> exact runSeq_functionFrame _ k s

/-! ### ROM (R152) -/

/-- The state after the eight ROM bytes. -/
def State.romWasRead (s : State) : State := (s.resetSlot.wrote 0x33).receivedRomBlock

theorem runSeq_checkRom (s : State) : runSeq checkRomSeq s =
    (if crc8 (s.romPrefix 7) = s.rom[7] then .go else .fail .crcFail, s.evalCrcRom 7) := by
  rw [checkRomSeq, runSeq_crcSeq_rom (by omega)]
  by_cases h : crc8 (s.romPrefix 7) = s.rom[7] <;> simp [runSeq, doStmt, h]

theorem runSeq_romRead (c : Bool) (s : State) :
    runSeq (romRead c) s =
      if s.level 0 = .low then runSeq (if c then checkRomSeq else []) s.romWasRead
      else (.fail .deviceNotFound, s.resetSlot) := by
  rcases Level.low_or_high (s.level 0) with h | h
  · rw [if_pos h, romRead, runSeq_reset_low h, List.append_assoc, runSeq_append_go (runSeq_writeByteSeq 0x33 _),
      runSeq_append_go (runSeq_receiveRomSeq _)]
    rfl
  · rw [if_neg (by simp [h]), romRead, runSeq_reset_high h]

/-! ### Pages (R156, R157, R158) -/

/-- The state after a successful `PageRead(p)`. -/
def State.pageWasRead (s : State) (p : Byte) : State := ((s.framed 0xB8 p).framed 0xBE p).receivedPage

/-- The state after a successful `PageWrite(p)`. -/
def State.pageWasWritten (s : State) (p : Byte) : State := ((s.framed 0x4E p).sentPage).framed 0x48 p

@[simp] theorem State.commanded_level (s : State) (command : Byte) (k : Nat) :
    (s.commanded command).level k = s.level (k + 1) := by simp [State.commanded]

@[simp] theorem State.framed_level (s : State) (command page : Byte) (k : Nat) :
    (s.framed command page).level k = s.level (k + 1) := by simp [State.framed]

@[simp] theorem State.sentPage_level (s : State) (k : Nat) : s.sentPage.level k = s.level k :=
  State.level_of_same (by rfl) (by rfl) k

/-- Everything `PageRead(p)` can do. -/
theorem runSeq_pageRead (p : Byte) (k : List Stmt) (s : State) :
    runSeq (pageRead p ++ k) s =
      if legalPage p = false then (.fail .badParam, s)
      else if s.level 0 ≠ .low then (.fail .deviceNotFound, s.resetSlot)
      else if s.level 1 ≠ .low then (.fail .deviceNotFound, (s.framed 0xB8 p).resetSlot)
      else runSeq k (s.pageWasRead p) := by
  rw [pageRead, List.cons_append]
  cases hp : legalPage p
  · simp [runSeq_param_false]
  · rw [runSeq_param_true, List.append_assoc, List.append_assoc, runSeq_pageFrame, runSeq_pageFrame,
      runSeq_append_go (runSeq_receivePageSeq _)]
    rcases Level.low_or_high (s.level 0) with h | h <;> rcases Level.low_or_high (s.level 1) with h' | h' <;>
      simp [h, h', State.pageWasRead]

/-- Everything `PageWrite(p)` can do. -/
theorem runSeq_pageWrite (p : Byte) (k : List Stmt) (s : State) :
    runSeq (pageWrite p ++ k) s =
      if legalPage p = false then (.fail .badParam, s)
      else if s.level 0 ≠ .low then (.fail .deviceNotFound, s.resetSlot)
      else if s.level 1 ≠ .low then (.fail .deviceNotFound, (s.framed 0x4E p).sentPage.resetSlot)
      else runSeq k (s.pageWasWritten p) := by
  rw [pageWrite, List.cons_append]
  cases hp : legalPage p
  · simp [runSeq_param_false]
  · rw [runSeq_param_true, List.append_assoc, List.append_assoc, runSeq_pageFrame,
      runSeq_append_go (runSeq_sendPageSeq _), runSeq_pageFrame]
    rcases Level.low_or_high (s.level 0) with h | h <;> rcases Level.low_or_high (s.level 1) with h' | h' <;>
      simp [h, h', State.pageWasWritten]

theorem runSeq_checkBuf (k : List Stmt) (s : State) : runSeq (checkBufSeq ++ k) s =
    if crc8 (s.bufPrefix 8) = s.buf[8] then runSeq k (s.evalCrcBuf 8) else (.fail .crcFail, s.evalCrcBuf 8) := by
  rw [checkBufSeq, List.append_assoc, runSeq_crcSeq_buf (by omega), List.singleton_append]
  by_cases h : crc8 (s.bufPrefix 8) = s.buf[8] <;> simp [runSeq, doStmt, h]

/-- The CRC check after a page read: whether it passes. -/
def State.crcPasses (s : State) (c : Bool) : Bool := !c || decide (crc8 (s.bufPrefix 8) = s.buf[8])

/-- The CRC check after a page read: the state after it. -/
def State.crcChecked (s : State) (c : Bool) : State := if c then s.evalCrcBuf 8 else s

/-- Everything `PageReadChecked(p, c)` can do. -/
theorem runSeq_pageReadChecked (p : Byte) (c : Bool) (k : List Stmt) (s : State) :
    runSeq (pageReadChecked p c ++ k) s =
      if legalPage p = false then (.fail .badParam, s)
      else if s.level 0 ≠ .low then (.fail .deviceNotFound, s.resetSlot)
      else if s.level 1 ≠ .low then (.fail .deviceNotFound, (s.framed 0xB8 p).resetSlot)
      else if (s.pageWasRead p).crcPasses c then runSeq k ((s.pageWasRead p).crcChecked c)
      else (.fail .crcFail, (s.pageWasRead p).crcChecked c) := by
  rw [pageReadChecked, List.append_assoc, runSeq_pageRead]
  cases c
  · simp [State.crcPasses, State.crcChecked]
  · simp only [↓reduceIte, runSeq_checkBuf, State.crcPasses, State.crcChecked,
      Bool.not_true, Bool.false_or, decide_eq_true_eq]

/-- Page 0 and page 1 are legal page numbers. -/
@[simp] theorem legalPage_zero : legalPage 0#8 = true := by decide
@[simp] theorem legalPage_one : legalPage 1#8 = true := by decide

/-! ### Readiness tests (R159, R160) -/

theorem runSeq_failIfBusy (q : Poll) (k : List Stmt) (s : State) : runSeq (.failIfBusy q :: k) s =
    if s.buf[0].getLsbD q.busyBit then (.fail .error, s) else runSeq k s := by
  by_cases h : s.buf[0].getLsbD q.busyBit = true <;> simp [runSeq, doStmt, h]

/-- The state after a page-0 read with its CRC check. -/
def State.statusWasRead (s : State) (c : Bool) : State := (s.pageWasRead 0).crcChecked c

/-- Everything a readiness test can do. -/
theorem runSeq_hasData (q : Poll) (c : Bool) (s : State) :
    runSeq (hasData q c) s =
      if s.level 0 ≠ .low then (.fail .deviceNotFound, s.resetSlot)
      else if s.level 1 ≠ .low then (.fail .deviceNotFound, (s.framed 0xB8 0).resetSlot)
      else if (s.pageWasRead 0).crcPasses c = false then (.fail .crcFail, s.statusWasRead c)
      else if (s.statusWasRead c).buf[0].getLsbD q.busyBit then (.fail .error, s.statusWasRead c)
      else (.go, s.statusWasRead c) := by
  rw [hasData, runSeq_pageReadChecked, runSeq_failIfBusy, if_neg (by decide)]
  simp only [runSeq, State.statusWasRead]
  cases (s.pageWasRead 0).crcPasses c <;> rfl

/-! ### Read-modify-write (43_flags.md R180) -/

/-- The page in BUF with one status bit changed. -/
def State.withStatus (s : State) (b : StatusBit) (v : Bool) : State :=
  { s with buf := s.buf.set 0 (setBit s.buf[0] b.index v) }

theorem runSeq_setStatus (b : StatusBit) (v : Bool) (k : List Stmt) (s : State) :
    runSeq (.setStatus b v :: k) s = runSeq k (s.withStatus b v) := by simp [runSeq, doStmt, State.withStatus]

/-- Everything `SetStatusBit(b, v)` can do: the page read as by `runSeq_pageRead`, then the write of the page with the
bit changed as by `runSeq_pageWrite`. -/
theorem runSeq_setStatusBit (b : StatusBit) (v : Bool) (k : List Stmt) (s : State) :
    runSeq (setStatusBit b v ++ k) s =
      if s.level 0 ≠ .low then (.fail .deviceNotFound, s.resetSlot)
      else if s.level 1 ≠ .low then (.fail .deviceNotFound, (s.framed 0xB8 0).resetSlot)
      else runSeq (pageWrite 0 ++ k) ((s.pageWasRead 0).withStatus b v) := by
  rw [setStatusBit, List.append_assoc, List.append_assoc, runSeq_pageRead, List.singleton_append, runSeq_setStatus,
    if_neg (by decide)]

end Sys2Proof.Machine
end

