-- ==== Sys2Proof/Laws/Closed.lean ====
section
/-! SUPPORT. The states that the frames and the page transactions leave where their resets detect presence, each as one
update of the state before it. -/

namespace Sys2Proof.Machine

theorem State.commanded_eq {s : State} (h : s.level 0 = .low) (c : Byte) : s.commanded c = { s with
    presence := true, lineDrv := false, drawn := s.drawn + 1, shift := c, bitcnt := 8
    bus := s.bus ++ functionEvents c, pins := s.pins ++ (functionEvents c).flatMap (slotPins s.cfg) } := by
  apply State.ext <;> simp [State.commanded, h, presenceOf, functionEvents]

theorem State.framed_eq {s : State} (h : s.level 0 = .low) (c p : Byte) : s.framed c p = { s with
    presence := true, lineDrv := false, drawn := s.drawn + 1, shift := p, bitcnt := 8
    bus := s.bus ++ pageEvents c p, pins := s.pins ++ (pageEvents c p).flatMap (slotPins s.cfg) } := by
  apply State.ext <;> simp [State.framed, State.commanded_eq h, pageEvents]

/-- A page received after `n` samples. -/
theorem State.pageAt_of_drawn {s t : State} {n : Nat} (hs : t.samples = s.samples) (hd : t.drawn = s.drawn + n)
    (k : Nat) : t.pageAt k = s.pageAt (k + n) := by
  simp only [State.pageAt, State.byteAt_of_drawn hs hd, Nat.add_right_comm k _ n]

/-- A ROM block received after `n` samples. -/
theorem State.romAt_of_drawn {s t : State} {n : Nat} (hs : t.samples = s.samples) (hd : t.drawn = s.drawn + n)
    (k : Nat) : t.romAt k = s.romAt (k + n) := by
  simp only [State.romAt, State.byteAt_of_drawn hs hd, Nat.add_right_comm k _ n]

/-- The events of a page read that starts after `n` samples. -/
theorem State.pageReadEvents_of_drawn {s t : State} {n : Nat} (hs : t.samples = s.samples) (hd : t.drawn = s.drawn + n)
    (p : Byte) (k : Nat) : t.pageReadEvents p k = s.pageReadEvents p (k + n) := by
  simp only [State.pageReadEvents, State.readEvents_of_drawn hs hd, Nat.add_right_comm k _ n]

/-- Both resets of `PageRead(p)` detect presence. -/
theorem State.pageWasRead_eq {s : State} (h : s.level 0 = .low) (h' : s.level 1 = .low) (p : Byte) :
    s.pageWasRead p = { s with
      buf := s.pageAt 2, presence := true, lineDrv := false, drawn := s.drawn + 74, shift := s.byteAt 66, bitcnt := 8
      bytecnt := 9
      bus := s.bus ++ s.pageReadEvents p 0, pins := s.pins ++ (s.pageReadEvents p 0).flatMap (slotPins s.cfg) } := by
  have e := State.framed_eq h 0xB8 p
  have h1 : (s.framed 0xB8 p).level 0 = .low := by simpa using h'
  have e' := State.framed_eq h1 0xBE p
  have hs : ((s.framed 0xB8 p).framed 0xBE p).samples = s.samples := by rw [e', e]
  have hd : ((s.framed 0xB8 p).framed 0xBE p).drawn = s.drawn + 2 := by rw [e', e]
  rw [State.pageWasRead, State.receivedPage, State.pageAt_of_drawn hs hd, State.readEvents_of_drawn hs hd,
    State.byteAt_of_drawn hs hd, e', e]
  apply State.ext <;> simp [State.pageReadEvents]

/-- Both resets of `PageWrite(p)` detect presence. -/
theorem State.pageWasWritten_eq {s : State} (h : s.level 0 = .low) (h' : s.level 1 = .low) (p : Byte) :
    s.pageWasWritten p = { s with
      presence := true, lineDrv := false, drawn := s.drawn + 2, shift := p, bitcnt := 8, bytecnt := 9
      bus := s.bus ++ pageWriteEvents p s.buf
      pins := s.pins ++ (pageWriteEvents p s.buf).flatMap (slotPins s.cfg) } := by
  have e := State.framed_eq h 0x4E p
  have h1 : (s.framed 0x4E p).sentPage.level 0 = .low := by simpa using h'
  have e' := State.framed_eq h1 0x48 p
  rw [State.pageWasWritten, e', State.sentPage, e]
  apply State.ext <;> simp [pageWriteEvents]

/-- The reset of a ROM read detects presence. -/
theorem State.romWasRead_eq {s : State} (h : s.level 0 = .low) : s.romWasRead = { s with
    rom := s.romAt 1, presence := true, lineDrv := false, drawn := s.drawn + 65, shift := s.byteAt 57, bitcnt := 8
    bytecnt := 8
    bus := s.bus ++ s.romReadEvents 0, pins := s.pins ++ (s.romReadEvents 0).flatMap (slotPins s.cfg) } := by
  have hs : (s.resetSlot.wrote 0x33).samples = s.samples := by simp
  have hd : (s.resetSlot.wrote 0x33).drawn = s.drawn + 1 := by simp
  rw [State.romWasRead, State.receivedRomBlock, State.romAt_of_drawn hs hd, State.readEvents_of_drawn hs hd,
    State.byteAt_of_drawn hs hd]
  apply State.ext <;> simp [h, presenceOf, State.romReadEvents]

end Sys2Proof.Machine
end

