-- ==== Sys2Proof/Laws/Delivery.lean ====
section
/-! SUPPORT. What a delivery in a number format can give (44_decode.md R206), and that every sense resistor is positive. -/

namespace Sys2Proof

/-- "must be > 0" (00_scope.md R7). -/
theorem Resistor.ohms_pos (r : Resistor) : 0 < r.ohms := by
  unfold Resistor.ohms; positivity

namespace Machine

@[simp] theorem deliver_exact (x : ℚ) : deliver .exact x = x := rfl

theorem mem_nearestNumbers {numbers : List FloatNumber} {x : ℚ} {v : FloatNumber} :
    v ∈ nearestNumbers numbers x ↔ v ∈ numbers ∧ ∀ w ∈ numbers, |v.value - x| ≤ |w.value - x| := by
  simp [nearestNumbers]

/-- Some number of a format is nearest to `x`. -/
theorem nearestNumbers_ne_nil (first : FloatNumber) (others : List FloatNumber) (x : ℚ) :
    nearestNumbers (first :: others) x ≠ [] := by
  obtain ⟨v, hv, hmin⟩ := (first :: others).toFinset.exists_min_image (fun w => |w.value - x|) ⟨first, by simp⟩
  refine List.ne_nil_of_mem (mem_nearestNumbers.mpr ⟨List.mem_toFinset.mp hv, fun w hw => ?_⟩)
  exact hmin w (List.mem_toFinset.mpr hw)

/-- Everything a delivery in a floating-point format can give: a number of the format, and none of them is nearer. -/
theorem deliver_floating (first : FloatNumber) (others : List FloatNumber) (x : ℚ) :
    ∃ v ∈ first :: others, deliver (.floating first others) x = v.value ∧
      ∀ w ∈ first :: others, |v.value - x| ≤ |w.value - x| := by
  have hpos := List.length_pos_iff.mpr (nearestNumbers_ne_nil first others x)
  have hlt := Nat.mod_lt (Config.freeTie x) hpos
  obtain ⟨hm, hmin⟩ := mem_nearestNumbers.mp (List.getElem_mem hlt)
  exact ⟨_, hm, by simp [deliver, List.getElem?_eq_getElem hlt], hmin⟩

end Machine

end Sys2Proof
end

