-- ==== Sys2Proof/Laws/Effect.lean ====
section
/-! SUPPORT. Everything a statement, and a sequence of statements, can do to the line, the histories and the registers:
the inversion lemmas that every invariant and every frame is derived from. -/

namespace Sys2Proof.Machine

/-! ### The histories -/

theorem drivingAfter_append (d : Bool) (a b : List PinEvent) :
    drivingAfter d (a ++ b) = drivingAfter (drivingAfter d a) b := by
  induction a generalizing d with
  | nil => rfl
  | cons e es ih => cases e <;> simp [drivingAfter, ih]

theorem samplesReleased_append (d : Bool) (a b : List PinEvent) :
    samplesReleased d (a ++ b) = (samplesReleased d a && samplesReleased (drivingAfter d a) b) := by
  induction a generalizing d with
  | nil => simp [samplesReleased, drivingAfter]
  | cons e es ih => cases e <;> simp [samplesReleased, drivingAfter, ih, Bool.and_assoc]

theorem samplesIn_append (a b : List PinEvent) : samplesIn (a ++ b) = samplesIn a + samplesIn b := by
  induction a with
  | nil => simp [samplesIn]
  | cons e es ih => cases e <;> simp [samplesIn, ih]; omega

theorem presenceIn_append (p : Bool) (a b : List BusEvent) : presenceIn p (a ++ b) = presenceIn (presenceIn p a) b := by
  induction a generalizing p with
  | nil => rfl
  | cons e es ih => cases e <;> simp [presenceIn, ih]

/-- Every slot ends with the line released and takes its sample released (41_transport.md R130). -/
theorem slotPins_released (cfg : Config) (e : BusEvent) (d : Bool) :
    drivingAfter d (slotPins cfg e) = false ∧ (d = false → samplesReleased d (slotPins cfg e) = true) := by
  cases e with
  | rst s => exact ⟨rfl, fun h => by subst h; rfl⟩
  | w b => cases b <;> exact ⟨rfl, fun h => by subst h; rfl⟩
  | r s => exact ⟨rfl, fun h => by subst h; rfl⟩

/-- Any run of slots that starts with the line released ends so, and samples only so. -/
theorem slots_released (cfg : Config) (es : List BusEvent) :
    drivingAfter false (es.flatMap (slotPins cfg)) = false ∧
      samplesReleased false (es.flatMap (slotPins cfg)) = true := by
  induction es with
  | nil => exact ⟨rfl, rfl⟩
  | cons e es ih =>
    obtain ⟨h1, h2⟩ := slotPins_released cfg e false
    simp [drivingAfter_append, samplesReleased_append, h1, h2 rfl, ih.1, ih.2]

/-! ### What a statement can do -/

/-- `t` is `s` after the slots `es`, with the registers that only the host, the environment or a completion writes
unchanged. -/
structure SlotEffect (s t : State) (es : List BusEvent) : Prop where
  bus : t.bus = s.bus ++ es
  pins : t.pins = s.pins ++ es.flatMap (slotPins s.cfg)
  drawn : t.drawn = s.drawn + samplesIn (es.flatMap (slotPins s.cfg))
  presence : t.presence = presenceIn s.presence es
  lineDrv : t.lineDrv = if es = [] then s.lineDrv else false
  cmd : t.cmd = s.cmd
  cfg : t.cfg = s.cfg
  samples : t.samples = s.samples
  agenda : t.agenda = s.agenda
  readData : t.readData = s.readData
  reads : t.reads = s.reads
  result : t.result = s.result
  rval : t.rval = s.rval
  busy : t.busy = s.busy
  done : t.done = s.done
  seq : t.seq = s.seq

theorem SlotEffect.none {s t : State} (h : t = { s with
    buf := t.buf, rom := t.rom, crcreg := t.crcreg, shift := t.shift, bitcnt := t.bitcnt, bytecnt := t.bytecnt
    pollcnt := t.pollcnt }) : SlotEffect s t [] := by
  rw [h]; constructor <;> simp [presenceIn, samplesIn]

theorem SlotEffect.trans {s t u : State} {a b : List BusEvent} (h : SlotEffect s t a) (h' : SlotEffect t u b) :
    SlotEffect s u (a ++ b) where
  bus := by rw [h'.bus, h.bus, List.append_assoc]
  pins := by rw [h'.pins, h.pins, h.cfg, List.flatMap_append, List.append_assoc]
  drawn := by rw [h'.drawn, h.drawn, h.cfg, List.flatMap_append, samplesIn_append, Nat.add_assoc]
  presence := by rw [h'.presence, h.presence, presenceIn_append]
  lineDrv := by rw [h'.lineDrv, h.lineDrv]; cases a <;> cases b <;> simp
  cmd := h'.cmd.trans h.cmd
  cfg := h'.cfg.trans h.cfg
  samples := h'.samples.trans h.samples
  agenda := h'.agenda.trans h.agenda
  readData := h'.readData.trans h.readData
  reads := h'.reads.trans h.reads
  result := h'.result.trans h.result
  rval := h'.rval.trans h.rval
  busy := h'.busy.trans h.busy
  done := h'.done.trans h.done
  seq := h'.seq.trans h.seq

theorem resetSlot_effect (s : State) : SlotEffect s s.resetSlot [.rst (s.level 0)] := by
  constructor <;> simp [presenceIn, samplesIn, slotPins]

theorem writeBit_effect (s : State) (b : Bool) : SlotEffect s (s.writeBit b) [.w b] := by
  cases b <;> constructor <;> simp [presenceIn, samplesIn, slotPins]

theorem readBit_effect (s : State) : SlotEffect s s.readBit [.r (s.level 0)] := by
  constructor <;> simp [presenceIn, samplesIn, slotPins]

/-- The changes a statement makes beside its slot. -/
theorem SlotEffect.andThen {s t u : State} {es : List BusEvent} (h : SlotEffect s t es) (hu : u = { t with
    buf := u.buf, rom := u.rom, crcreg := u.crcreg, shift := u.shift, bitcnt := u.bitcnt, bytecnt := u.bytecnt
    pollcnt := u.pollcnt }) : SlotEffect s u es := by
  simpa using h.trans (SlotEffect.none hu)

theorem sendBit_effect (s : State) : SlotEffect s s.sendBit [.w s.shiftBit] := (writeBit_effect s _).andThen rfl

theorem recvBit_effect (s : State) : SlotEffect s s.recvBit [.r (s.level 0)] := (readBit_effect s).andThen rfl

/-- Every statement is at most one slot, and nothing else that reaches the line or the control registers. -/
theorem doStmt_effect (m : Stmt) (s : State) : ∃ es, SlotEffect s (doStmt m s).2 es ∧ es.length ≤ 1 := by
  cases m with
  | reset => exact ⟨_, resetSlot_effect s, by simp⟩
  | writeBit b => exact ⟨_, writeBit_effect s b, by simp⟩
  | sendBit => exact ⟨_, sendBit_effect s, by simp⟩
  | recvBit => exact ⟨_, recvBit_effect s, by simp⟩
  | touchBit =>
    simp only [doStmt, State.touchBit]
    split
    · exact ⟨_, recvBit_effect s, by simp⟩
    · exact ⟨_, sendBit_effect s, by simp⟩
  | param _ => exact ⟨[], .none rfl, by simp⟩
  | load _ => exact ⟨[], .none rfl, by simp⟩
  | loadBuf => exact ⟨[], .none rfl, by simp⟩
  | startBlock => exact ⟨[], .none rfl, by simp⟩
  | storeBuf => exact ⟨[], .none rfl, by simp⟩
  | storeRom => exact ⟨[], .none rfl, by simp⟩
  | nextByte => exact ⟨[], .none rfl, by simp⟩
  | crcInit => exact ⟨[], .none rfl, by simp⟩
  | crcBit _ _ _ => exact ⟨[], .none rfl, by simp⟩
  | checkBuf => exact ⟨[], .none rfl, by simp⟩
  | checkRom => exact ⟨[], .none rfl, by simp⟩
  | failIfBusy _ => exact ⟨[], .none rfl, by simp⟩
  | setStatus _ _ => exact ⟨[], .none rfl, by simp⟩
  | setThreshold _ => exact ⟨[], .none rfl, by simp⟩
  | pauseIad _ => exact ⟨[], .none rfl, by simp⟩
  | pollLoop _ _ => exact ⟨[], .none rfl, by simp⟩
  | ret _ => exact ⟨[], .none rfl, by simp⟩

/-- A sequence of statements is a run of slots, and nothing else that reaches the line or the control registers. -/
theorem runSeq_effect (k : List Stmt) (s : State) : ∃ es, SlotEffect s (runSeq k s).2 es := by
  induction k generalizing s with
  | nil => exact ⟨[], .none rfl⟩
  | cons m ms ih =>
    obtain ⟨es, h, -⟩ := doStmt_effect m s
    rcases hm : doStmt m s with ⟨f, s'⟩
    rw [hm] at h
    cases f with
    | go =>
      obtain ⟨es', h'⟩ := ih s'
      exact ⟨_, by rw [runSeq, hm]; exact h.trans h'⟩
    | ret _ => exact ⟨es, by rw [runSeq, hm]; exact h⟩
    | fail _ => exact ⟨es, by rw [runSeq, hm]; exact h⟩
    | branch _ => exact ⟨es, by rw [runSeq, hm]; exact h⟩
    | poll _ _ => exact ⟨es, by rw [runSeq, hm]; exact h⟩

/-- What every statement of a sequence keeps, the sequence keeps. -/
theorem runSeq_keeps {α : Type} (f : State → α) {k : List Stmt} (h : ∀ m ∈ k, ∀ s, f (doStmt m s).2 = f s) (s : State) :
    f (runSeq k s).2 = f s := by
  induction k generalizing s with
  | nil => rfl
  | cons m ms ih =>
    have hm := h m (by simp) s
    have ih' := fun s => ih (fun m hm => h m (by simp [hm])) s
    rcases hd : doStmt m s with ⟨fl, s'⟩
    rw [hd] at hm
    cases fl <;> rw [runSeq, hd] <;> first | exact (ih' s').trans hm | exact hm

@[simp] theorem State.touchBit_rom (s : State) : s.touchBit.rom = s.rom := by
  unfold State.touchBit; split <;> simp [State.sendBit, State.recvBit]

@[simp] theorem State.touchBit_crcreg (s : State) : s.touchBit.crcreg = s.crcreg := by
  unfold State.touchBit; split <;> simp [State.sendBit, State.recvBit]

@[simp] theorem State.touchBit_buf (s : State) : s.touchBit.buf = s.buf := by
  unfold State.touchBit; split <;> simp [State.sendBit, State.recvBit]

/-- The only statement that writes ROM (10_state.md R22). -/
theorem doStmt_rom {m : Stmt} (h : m ≠ .storeRom) (s : State) : (doStmt m s).2.rom = s.rom := by
  cases m <;> first
    | contradiction
    | simp only [doStmt, State.touchBit_rom, State.sendBit, State.recvBit, State.resetSlot_rom, State.writeBit_rom, State.readBit_rom]

/-- The only statements that write CRCREG (10_state.md R24). -/
theorem doStmt_crcreg {m : Stmt} (h : m ≠ .crcInit) (h' : ∀ src k i, m ≠ .crcBit src k i) (s : State) :
    (doStmt m s).2.crcreg = s.crcreg := by
  cases m <;> first
    | contradiction
    | exact absurd rfl (h' _ _ _)
    | simp only [doStmt, State.touchBit_crcreg, State.sendBit, State.recvBit, State.resetSlot_crcreg, State.writeBit_crcreg,
        State.readBit_crcreg]

/-- The only statements that write BUF (10_state.md R21). -/
theorem doStmt_buf {m : Stmt} (h : m ≠ .storeBuf) (h' : ∀ b v, m ≠ .setStatus b v) (h'' : ∀ v, m ≠ .setThreshold v)
    (s : State) : (doStmt m s).2.buf = s.buf := by
  cases m <;> first
    | contradiction
    | exact absurd rfl (h' _ _)
    | exact absurd rfl (h'' _)
    | simp only [doStmt, State.touchBit_buf, State.sendBit, State.recvBit, State.resetSlot_buf, State.writeBit_buf, State.readBit_buf]

/-! ### SEQ plays no part inside a statement -/

/-- A bit of TouchByte neither reads nor writes SEQ. -/
theorem touchBit_seq (q : Seq) (s : State) : State.touchBit { s with seq := q } = { s.touchBit with seq := q } := by
  unfold State.touchBit
  rw [show State.shiftBit { s with seq := q } = s.shiftBit from rfl]
  split
  · simp only [State.recvBit, State.readBit_eq]; rfl
  · simp only [State.sendBit, State.writeBit_eq]; rfl

/-- A statement neither reads nor writes SEQ. -/
theorem doStmt_seq (m : Stmt) (q : Seq) (s : State) :
    doStmt m { s with seq := q } = ((doStmt m s).1, { (doStmt m s).2 with seq := q }) := by
  cases m with
  | touchBit => simp only [doStmt, touchBit_seq]
  | reset => simp only [doStmt, State.resetSlot_eq]; rfl
  | writeBit b => simp only [doStmt, State.writeBit_eq]
  | sendBit => simp only [doStmt, State.sendBit, State.writeBit_eq]; rfl
  | recvBit => simp only [doStmt, State.recvBit, State.readBit_eq]; rfl
  | _ => rfl

theorem runSeq_seq (k : List Stmt) (q : Seq) (s : State) :
    runSeq k { s with seq := q } = ((runSeq k s).1, { (runSeq k s).2 with seq := q }) := by
  induction k generalizing s with
  | nil => rfl
  | cons m ms ih =>
    rcases hd : doStmt m s with ⟨fl, s'⟩
    have h := doStmt_seq m q s
    rw [hd] at h
    cases fl <;> simp [runSeq, hd, h, ih]

end Sys2Proof.Machine
end

