-- ==== Sys2Proof/Laws/Encoding.lean ====
section
/-! SUPPORT. The fields of an encoded command word (30_encoding.md R90). -/

namespace Sys2Proof

@[simp] theorem opField_commandWord (op arg : Byte) (crc : Bool) (len : BitVec 4) :
    opField (commandWord op arg crc len) = op := by
  ext i hi
  have : i = 0 ∨ i = 1 ∨ i = 2 ∨ i = 3 ∨ i = 4 ∨ i = 5 ∨ i = 6 ∨ i = 7 := by omega
  rcases this with h | h | h | h | h | h | h | h <;> subst h <;> simp [opField, commandWord]

@[simp] theorem argField_commandWord (op arg : Byte) (crc : Bool) (len : BitVec 4) :
    argField (commandWord op arg crc len) = arg := by
  ext i hi
  have : i = 0 ∨ i = 1 ∨ i = 2 ∨ i = 3 ∨ i = 4 ∨ i = 5 ∨ i = 6 ∨ i = 7 := by omega
  rcases this with h | h | h | h | h | h | h | h <;> subst h <;> simp [argField, commandWord]

@[simp] theorem lenField_commandWord (op arg : Byte) (crc : Bool) (len : BitVec 4) :
    lenField (commandWord op arg crc len) = len := by
  ext i hi
  have : i = 0 ∨ i = 1 ∨ i = 2 ∨ i = 3 := by omega
  rcases this with h | h | h | h <;> subst h <;> simp [lenField, commandWord]

@[simp] theorem crcField_commandWord (op arg : Byte) (crc : Bool) (len : BitVec 4) :
    crcField (commandWord op arg crc len) = crc := by
  simp [crcField, commandWord]

@[simp] theorem reservedField_commandWord (op arg : Byte) (crc : Bool) (len : BitVec 4) :
    reservedField (commandWord op arg crc len) = 0 := by
  ext i hi
  interval_cases i <;> simp [reservedField, commandWord]

/-- The word as a number: "`OP | ARG << 8 | CRC << 16 | LEN << 20`" (R90). -/
theorem toNat_commandWord (op arg : Byte) (crc : Bool) (len : BitVec 4) :
    (commandWord op arg crc len).toNat = op.toNat + 2 ^ 8 * arg.toNat + 2 ^ 16 * crc.toNat + 2 ^ 20 * len.toNat := by
  have hop := op.isLt
  have harg := arg.isLt
  have hlen := len.isLt
  have hcrc : crc.toNat ≤ 1 := by cases crc <;> decide
  have or_add {n : Nat} (a b : Nat) (h : b < 2 ^ n) : b ||| 2 ^ n * a = 2 ^ n * a + b := by
    rw [Nat.or_comm]; exact (Nat.two_pow_add_eq_or_of_lt h a).symm
  have h8 : (arg.zeroExtend 32 <<< 8).toNat = 2 ^ 8 * arg.toNat := by simp [Nat.shiftLeft_eq]; omega
  have h16 : ((BitVec.ofBool crc).zeroExtend 32 <<< 16).toNat = 2 ^ 16 * crc.toNat := by cases crc <;> decide
  have h20 : (len.zeroExtend 32 <<< 20).toNat = 2 ^ 20 * len.toNat := by simp [Nat.shiftLeft_eq]; omega
  have h0 : (op.zeroExtend 32).toNat = op.toNat := by simp; omega
  rw [commandWord, BitVec.toNat_or, BitVec.toNat_or, BitVec.toNat_or, h8, h16, h20, h0, or_add arg.toNat _ hop,
    or_add crc.toNat _ (by omega), or_add len.toNat _ (by omega)]
  omega

end Sys2Proof
end

