-- ==== Sys2Proof/Laws/PerInstr.lean ====
section
/-! SUPPORT. The family RoundTrip of LAWS.json: for each operation, the decoder gives back what the encoder wrote. -/

namespace Sys2Proof.Laws.RoundTrip

/-- The word of a well-formed operation decodes to it. -/
def Statement (i : Instr) : Prop := i.wellFormed = true → decode (encode i) = .ok i

theorem crc8Compute (len : BitVec 4) : Statement (.crc8Compute len) := by
  intro h
  simp_all [encode, decode, decodeOp, decodeLen, Instr.wellFormed, unusedFieldsZero]

theorem crc8Check (expected : Byte) (len : BitVec 4) : Statement (.crc8Check expected len) := by
  intro h
  simp_all [encode, decode, decodeOp, decodeLen, Instr.wellFormed, unusedFieldsZero]

theorem reset : Statement (.reset) := by
  intro _
  simp [encode, decode, decodeOp, decodePlain, unusedFieldsZero]

theorem writeBit (value : Byte) : Statement (.writeBit value) := by
  intro h
  simp_all [encode, decode, decodeOp, decodeBit, decodeArg, Instr.wellFormed, unusedFieldsZero]

theorem readBit : Statement (.readBit) := by
  intro _
  simp [encode, decode, decodeOp, decodePlain, unusedFieldsZero]

theorem writeByte (value : Byte) : Statement (.writeByte value) := by
  intro _
  simp [encode, decode, decodeOp, decodeArg, unusedFieldsZero]

theorem readByte : Statement (.readByte) := by
  intro _
  simp [encode, decode, decodeOp, decodePlain, unusedFieldsZero]

theorem touchByte (value : Byte) : Statement (.touchByte value) := by
  intro _
  simp [encode, decode, decodeOp, decodeArg, unusedFieldsZero]

theorem touchBlock (len : BitVec 4) : Statement (.touchBlock len) := by
  intro h
  simp_all [encode, decode, decodeOp, decodeLen, Instr.wellFormed, unusedFieldsZero]

theorem devicePresent : Statement (.devicePresent) := by
  intro _
  simp [encode, decode, decodeOp, decodePlain, unusedFieldsZero]

theorem readRom (crc : Bool) : Statement (.readRom crc) := by
  intro _
  simp [encode, decode, decodeOp, decodeCrc, unusedFieldsZero]

theorem readSerialNumber (crc : Bool) : Statement (.readSerialNumber crc) := by
  intro _
  simp [encode, decode, decodeOp, decodeCrc, unusedFieldsZero]

theorem startVoltageConversion : Statement (.startVoltageConversion) := by
  intro _
  simp [encode, decode, decodeOp, decodePlain, unusedFieldsZero]

theorem startTemperatureConversion : Statement (.startTemperatureConversion) := by
  intro _
  simp [encode, decode, decodeOp, decodePlain, unusedFieldsZero]

theorem readPage (page : Byte) : Statement (.readPage page) := by
  intro _
  simp [encode, decode, decodeOp, decodeArg, unusedFieldsZero]

theorem writePage (page : Byte) : Statement (.writePage page) := by
  intro _
  simp [encode, decode, decodeOp, decodeArg, unusedFieldsZero]

theorem hasVoltageData (crc : Bool) : Statement (.hasVoltageData crc) := by
  intro _
  simp [encode, decode, decodeOp, decodeCrc, unusedFieldsZero]

theorem hasTemperatureData (crc : Bool) : Statement (.hasTemperatureData crc) := by
  intro _
  simp [encode, decode, decodeOp, decodeCrc, unusedFieldsZero]

theorem readVoltage (crc : Bool) : Statement (.readVoltage crc) := by
  intro _
  simp [encode, decode, decodeOp, decodeCrc, unusedFieldsZero]

theorem readTemperature (crc : Bool) : Statement (.readTemperature crc) := by
  intro _
  simp [encode, decode, decodeOp, decodeCrc, unusedFieldsZero]

theorem copyInProgress : Statement (.copyInProgress) := by
  intro _
  simp [encode, decode, decodeOp, decodePlain, unusedFieldsZero]

theorem readThreshold (crc : Bool) : Statement (.readThreshold crc) := by
  intro _
  simp [encode, decode, decodeOp, decodeCrc, unusedFieldsZero]

theorem getIca (crc : Bool) : Statement (.getIca crc) := by
  intro _
  simp [encode, decode, decodeOp, decodeCrc, unusedFieldsZero]

theorem getCapacity (crc : Bool) : Statement (.getCapacity crc) := by
  intro _
  simp [encode, decode, decodeOp, decodeCrc, unusedFieldsZero]

theorem selectInputSource (source : Byte) (crc : Bool) : Statement (.selectInputSource source crc) := by
  intro _
  simp [encode, decode, decodeOp, decodeArgCrc, unusedFieldsZero]

theorem enableIad : Statement (.enableIad) := by
  intro _
  simp [encode, decode, decodeOp, decodePlain, unusedFieldsZero]

theorem disableIad : Statement (.disableIad) := by
  intro _
  simp [encode, decode, decodeOp, decodePlain, unusedFieldsZero]

theorem enableCa : Statement (.enableCa) := by
  intro _
  simp [encode, decode, decodeOp, decodePlain, unusedFieldsZero]

theorem disableCa : Statement (.disableCa) := by
  intro _
  simp [encode, decode, decodeOp, decodePlain, unusedFieldsZero]

theorem enableShadowEe : Statement (.enableShadowEe) := by
  intro _
  simp [encode, decode, decodeOp, decodePlain, unusedFieldsZero]

theorem disableShadowEe : Statement (.disableShadowEe) := by
  intro _
  simp [encode, decode, decodeOp, decodePlain, unusedFieldsZero]

theorem writeThreshold (value : Byte) : Statement (.writeThreshold value) := by
  intro _
  simp [encode, decode, decodeOp, decodeArg, unusedFieldsZero]

theorem decodeTemperature : Statement (.decodeTemperature) := by
  intro _
  simp [encode, decode, decodeOp, decodePlain, unusedFieldsZero]

theorem decodeVoltage : Statement (.decodeVoltage) := by
  intro _
  simp [encode, decode, decodeOp, decodePlain, unusedFieldsZero]

theorem decodeCurrent : Statement (.decodeCurrent) := by
  intro _
  simp [encode, decode, decodeOp, decodePlain, unusedFieldsZero]

theorem decodeCapacity : Statement (.decodeCapacity) := by
  intro _
  simp [encode, decode, decodeOp, decodePlain, unusedFieldsZero]

end Sys2Proof.Laws.RoundTrip
end

