-- ==== Sys2Proof/Laws/Touch.lean ====
section
/-! SUPPORT. The closed form of `TouchByte` and of a touched block (41_transport.md R137, R138). -/

namespace Sys2Proof.Machine

/-- The byte in SHIFT after the first `i` bits: results below `i`, outgoing bits from `i` on. -/
def State.touchShift (s : State) (x : Byte) (i : Nat) : Byte :=
  let f (j : Nat) : Bool := if j < i then s.touchedBit 0 x j else x.getLsbD j
  byteOfBits (f 0) (f 1) (f 2) (f 3) (f 4) (f 5) (f 6) (f 7)

/-- The state after the first `i` bits of `TouchByte(x)`. -/
def State.touchedTo (s : State) (x : Byte) (i : Nat) : State :=
  let es := (List.range i).map fun j => if x.getLsbD j then BusEvent.r (s.level (onesBelow x j)) else .w false
  { s with
    shift := s.touchShift x i, bitcnt := BitVec.ofNat 4 i, lineDrv := if i = 0 then s.lineDrv else false
    drawn := s.drawn + onesBelow x i
    bus := s.bus ++ es, pins := s.pins ++ es.flatMap (slotPins s.cfg) }

/-- Bit `i` of a byte given by its bits. -/
theorem byteOfBits_bit (b0 b1 b2 b3 b4 b5 b6 b7 : Bool) :
    (byteOfBits b0 b1 b2 b3 b4 b5 b6 b7).getLsbD 0 = b0 ∧ (byteOfBits b0 b1 b2 b3 b4 b5 b6 b7).getLsbD 1 = b1 ∧
    (byteOfBits b0 b1 b2 b3 b4 b5 b6 b7).getLsbD 2 = b2 ∧ (byteOfBits b0 b1 b2 b3 b4 b5 b6 b7).getLsbD 3 = b3 ∧
    (byteOfBits b0 b1 b2 b3 b4 b5 b6 b7).getLsbD 4 = b4 ∧ (byteOfBits b0 b1 b2 b3 b4 b5 b6 b7).getLsbD 5 = b5 ∧
    (byteOfBits b0 b1 b2 b3 b4 b5 b6 b7).getLsbD 6 = b6 ∧ (byteOfBits b0 b1 b2 b3 b4 b5 b6 b7).getLsbD 7 = b7 := by
  revert b0 b1 b2 b3 b4 b5 b6 b7; decide

/-- Writing bit `i` of a byte given by its bits. -/
theorem setBit_byteOfBits (b0 b1 b2 b3 b4 b5 b6 b7 b : Bool) :
    setBit (byteOfBits b0 b1 b2 b3 b4 b5 b6 b7) 0 b = byteOfBits b b1 b2 b3 b4 b5 b6 b7 ∧
    setBit (byteOfBits b0 b1 b2 b3 b4 b5 b6 b7) 1 b = byteOfBits b0 b b2 b3 b4 b5 b6 b7 ∧
    setBit (byteOfBits b0 b1 b2 b3 b4 b5 b6 b7) 2 b = byteOfBits b0 b1 b b3 b4 b5 b6 b7 ∧
    setBit (byteOfBits b0 b1 b2 b3 b4 b5 b6 b7) 3 b = byteOfBits b0 b1 b2 b b4 b5 b6 b7 ∧
    setBit (byteOfBits b0 b1 b2 b3 b4 b5 b6 b7) 4 b = byteOfBits b0 b1 b2 b3 b b5 b6 b7 ∧
    setBit (byteOfBits b0 b1 b2 b3 b4 b5 b6 b7) 5 b = byteOfBits b0 b1 b2 b3 b4 b b6 b7 ∧
    setBit (byteOfBits b0 b1 b2 b3 b4 b5 b6 b7) 6 b = byteOfBits b0 b1 b2 b3 b4 b5 b b7 ∧
    setBit (byteOfBits b0 b1 b2 b3 b4 b5 b6 b7) 7 b = byteOfBits b0 b1 b2 b3 b4 b5 b6 b := by
  revert b0 b1 b2 b3 b4 b5 b6 b7 b; decide

theorem onesBelow_succ (x : Byte) (i : Nat) : onesBelow x (i + 1) = onesBelow x i + (x.getLsbD i).toNat := by
  simp only [onesBelow, List.range_succ, List.countP_append, List.countP_singleton]
  cases x.getLsbD i <;> rfl

/-- A byte is the byte of its bits. -/
theorem byteOfBits_getLsbD (x : Byte) :
    byteOfBits (x.getLsbD 0) (x.getLsbD 1) (x.getLsbD 2) (x.getLsbD 3) (x.getLsbD 4) (x.getLsbD 5) (x.getLsbD 6)
      (x.getLsbD 7) = x := by revert x; decide

theorem State.touchedTo_zero (s : State) (x : Byte) : s.touchedTo x 0 = { s with shift := x, bitcnt := 0 } := by
  apply State.ext <;> simp [-BitVec.getLsbD_eq_getElem, State.touchedTo, State.touchShift, byteOfBits_getLsbD, onesBelow]

theorem eight_cases {i : Nat} (hi : i < 8) :
    i = 0 ∨ i = 1 ∨ i = 2 ∨ i = 3 ∨ i = 4 ∨ i = 5 ∨ i = 6 ∨ i = 7 := by omega

/-- SHIFT after one more bit: the result bit replaces the outgoing bit. -/
theorem State.touchShift_succ (s : State) (x : Byte) {i : Nat} (hi : i < 8) :
    s.touchShift x (i + 1) = setBit (s.touchShift x i) i (s.touchedBit 0 x i) := by
  rcases eight_cases hi with rfl | rfl | rfl | rfl | rfl | rfl | rfl | rfl <;>
    simp [-BitVec.getLsbD_eq_getElem, State.touchShift, setBit_byteOfBits]

/-- The outgoing bits from `i` on still stand in SHIFT. -/
theorem State.touchShift_bit (s : State) (x : Byte) {i : Nat} (hi : i < 8) :
    (s.touchShift x i).getLsbD i = x.getLsbD i := by
  rcases eight_cases hi with rfl | rfl | rfl | rfl | rfl | rfl | rfl | rfl <;>
    simp [-BitVec.getLsbD_eq_getElem, State.touchShift, byteOfBits_bit]

/-- Writing a bit that is already there changes nothing. -/
theorem setBit_same (x : Byte) {i : Nat} (hi : i < 8) : setBit x i (x.getLsbD i) = x := by
  rcases eight_cases hi with rfl | rfl | rfl | rfl | rfl | rfl | rfl | rfl <;> revert x <;> decide

/-- The next bit of `TouchByte`. -/
theorem State.touchBit_touchedTo (s : State) (x : Byte) {i : Nat} (hi : i < 8) :
    (s.touchedTo x i).touchBit = s.touchedTo x (i + 1) := by
  have hl : (s.touchedTo x i).level 0 = s.level (onesBelow x i) :=
    (State.level_of_drawn (s := s) (n := onesBelow x i) (by rfl) (by rfl) 0).trans (by rw [Nat.zero_add])
  have hi4 : (BitVec.ofNat 4 i).toNat = i := by simp; omega
  have hb : (s.touchedTo x i).shiftBit = x.getLsbD i := by
    rw [State.shiftBit, show (s.touchedTo x i).bitcnt = BitVec.ofNat 4 i from rfl, hi4]
    exact s.touchShift_bit x hi
  have hbc : BitVec.ofNat 4 i + 1 = BitVec.ofNat 4 (i + 1) := by simp [BitVec.ofNat_add]
  have hbit : s.touchedBit 0 x i = (x.getLsbD i && bitOfLevel (s.level (onesBelow x i))) := by
    simp only [State.touchedBit, State.bitAt, Nat.zero_add]
  unfold State.touchBit
  rw [hb]
  cases hx : x.getLsbD i
  · have hs : s.touchShift x (i + 1) = s.touchShift x i := by
      rw [s.touchShift_succ x hi, hbit, hx, Bool.false_and, ← hx, ← s.touchShift_bit x hi, setBit_same _ hi]
    rw [State.sendBit, hb, hx, State.writeBit_eq]
    simp only [Bool.false_eq_true, ↓reduceIte, State.touchedTo, hx, hs,
      onesBelow_succ, Bool.toNat_false, List.range_succ, List.map_append, List.map_cons, List.map_nil,
      List.flatMap_append, List.append_assoc, hbc, Nat.add_zero, Nat.succ_ne_zero, List.flatMap_cons, List.flatMap_nil,
      List.append_nil]
  · have hs : s.touchShift x (i + 1) = setBit (s.touchShift x i) i (bitOfLevel (s.level (onesBelow x i))) := by
      rw [s.touchShift_succ x hi, hbit, hx, Bool.true_and]
    rw [State.recvBit, State.readBit_eq, hl, show (s.touchedTo x i).bitcnt = BitVec.ofNat 4 i from rfl, hi4,
      show (s.touchedTo x i).shift = s.touchShift x i from rfl, ← hs]
    simp only [↓reduceIte, State.touchedTo, onesBelow_succ, hx, Bool.toNat_true, List.range_succ, List.map_append,
      List.map_cons, List.map_nil, List.flatMap_append, List.append_assoc, hbc, Nat.succ_ne_zero, Nat.add_assoc,
      List.flatMap_cons, List.flatMap_nil, List.append_nil]

/-- The state after `TouchByte(x)`. -/
def State.touched (s : State) (x : Byte) : State := { s with
  shift := s.touchResult 0 x, bitcnt := 8, lineDrv := false, drawn := s.drawn + onesBelow x 8
  bus := s.bus ++ s.touchEvents 0 x, pins := s.pins ++ (s.touchEvents 0 x).flatMap (slotPins s.cfg) }

theorem State.touchedTo_eight (s : State) (x : Byte) : s.touchedTo x 8 = s.touched x := by
  simp [-BitVec.getLsbD_eq_getElem, State.touchedTo, State.touched, State.touchShift, State.touchResult,
    State.touchEvents]

theorem runSeq_touchBits (s : State) (x : Byte) :
    runSeq (List.replicate 8 .touchBit) { s with shift := x, bitcnt := 0 } = (.go, s.touched x) := by
  rw [← s.touchedTo_zero, ← s.touchedTo_eight]
  have h {i : Nat} (hi : i < 8) (k : List Stmt) :
      runSeq (.touchBit :: k) (s.touchedTo x i) = runSeq k (s.touchedTo x (i + 1)) := by
    rw [← s.touchBit_touchedTo x hi]; rfl
  simp only [List.replicate]
  rw [h (by omega), h (by omega), h (by omega), h (by omega), h (by omega), h (by omega), h (by omega), h (by omega)]
  rfl

/-- `TouchByte(x)`. -/
theorem runSeq_touchByteSeq (x : Byte) (s : State) : runSeq (touchByteSeq x) s = (.go, s.touched x) :=
  runSeq_touchBits s x

/-! ### A touched block (R138) -/

/-- One turn of the touch loop: the byte BUF[BYTECNT] touched in place. -/
def State.touchedInPlace (s : State) : State :=
  { s.touched s.bufAtByteCount with
    buf := s.buf.setIfInBounds s.bytecnt.toNat (s.touchResult 0 s.bufAtByteCount), bytecnt := s.bytecnt + 1 }

theorem runSeq_touchInPlace (s : State) :
    runSeq (.loadBuf :: List.replicate 8 .touchBit ++ [.storeBuf]) s = (.go, s.touchedInPlace) := by
  rw [List.cons_append, runSeq, doStmt]
  simp only
  rw [runSeq_append_go (runSeq_touchBits s s.bufAtByteCount)]
  simp [runSeq, doStmt, State.touched, State.touchedInPlace]

theorem runSeq_touchBlockSeq (n : Nat) (s : State) :
    runSeq (touchBlockSeq n) s = (.go, iterateState State.touchedInPlace n { s with bytecnt := 0 }) := by
  rw [touchBlockSeq, runSeq, doStmt]
  exact runSeq_repeatSeq runSeq_touchInPlace n _

/-- What touching from a later point gives, in terms of the samples still to come at an earlier one. -/
theorem State.touchResult_of_drawn {s t : State} {n : Nat} (hs : t.samples = s.samples) (hd : t.drawn = s.drawn + n)
    (k : Nat) (x : Byte) : t.touchResult k x = s.touchResult (k + n) x := by
  simp only [State.touchResult, State.touchedBit, State.bitAt, State.level_of_drawn hs hd, Nat.add_right_comm k _ n]

theorem State.touchResults_of_drawn {s t : State} {n : Nat} (hs : t.samples = s.samples) (hd : t.drawn = s.drawn + n)
    (k : Nat) (xs : List Byte) : t.touchResults k xs = s.touchResults (k + n) xs := by
  induction xs generalizing k with
  | nil => rfl
  | cons x xs ih =>
    simp only [State.touchResults, State.touchResult_of_drawn hs hd, ih, Nat.add_right_comm k _ n]

theorem State.touchEvents_of_drawn {s t : State} {n : Nat} (hs : t.samples = s.samples) (hd : t.drawn = s.drawn + n)
    (k : Nat) (x : Byte) : t.touchEvents k x = s.touchEvents (k + n) x := by
  simp only [State.touchEvents, State.level_of_drawn hs hd, Nat.add_right_comm k _ n]

theorem State.touchBlockEvents_of_drawn {s t : State} {n : Nat} (hs : t.samples = s.samples)
    (hd : t.drawn = s.drawn + n) (k : Nat) (xs : List Byte) :
    t.touchBlockEvents k xs = s.touchBlockEvents (k + n) xs := by
  induction xs generalizing k with
  | nil => rfl
  | cons x xs ih =>
    simp only [State.touchBlockEvents, State.touchEvents_of_drawn hs hd, ih, Nat.add_right_comm k _ n]

/-- Everything a touched block does: `n` bytes from index `j = BYTECNT` on, in place and in order. -/
theorem touchedInPlace_iterate (n : Nat) (s : State) (h : s.bytecnt.toNat + n ≤ 9) :
    let t := iterateState State.touchedInPlace n s
    let xs := (s.buf.toList.drop s.bytecnt.toNat).take n
    t = { s with
      buf := t.buf, shift := t.shift, bitcnt := t.bitcnt, bytecnt := t.bytecnt, lineDrv := t.lineDrv
      drawn := s.drawn + touchSamples xs, bus := s.bus ++ s.touchBlockEvents 0 xs
      pins := s.pins ++ (s.touchBlockEvents 0 xs).flatMap (slotPins s.cfg) } ∧
    t.buf.toList = s.buf.toList.take s.bytecnt.toNat ++ s.touchResults 0 xs ++ s.buf.toList.drop (s.bytecnt.toNat + n) ∧
    (s.lineDrv = false → t.lineDrv = false) := by
  induction n generalizing s with
  | zero =>
    refine ⟨?_, ?_, fun h => h⟩
    · simp [iterateState, touchSamples, State.touchBlockEvents]
    · simp [iterateState, State.touchResults]
  | succ n ih =>
    have hj : s.bytecnt.toNat < 9 := by omega
    have hlen : s.buf.toList.length = 9 := by simp
    have hx : s.bufAtByteCount = s.buf.toList[s.bytecnt.toNat]'(by omega) := by
      simp [State.bufAtByteCount, hj]
    have hc : (s.bytecnt + 1).toNat = s.bytecnt.toNat + 1 := by rw [BitVec.toNat_add]; simp; omega
    have hdrop : s.buf.toList.drop s.bytecnt.toNat =
        s.bufAtByteCount :: s.buf.toList.drop (s.bytecnt.toNat + 1) := by
      rw [hx]; exact List.drop_eq_getElem_cons (by omega)
    obtain ⟨e, hb, hl⟩ := ih s.touchedInPlace (by simp only [State.touchedInPlace, hc]; omega)
    have hrest : (s.touchedInPlace.buf.toList.drop s.touchedInPlace.bytecnt.toNat) =
        s.buf.toList.drop (s.bytecnt.toNat + 1) := by
      simp only [State.touchedInPlace, hc, Vector.toList_setIfInBounds]
      rw [List.drop_set_of_lt (by omega)]
    have hd : s.touchedInPlace.drawn = s.drawn + onesBelow s.bufAtByteCount 8 := rfl
    have hs : s.touchedInPlace.samples = s.samples := rfl
    simp only [hrest] at e hb
    rw [State.touchBlockEvents_of_drawn hs hd, Nat.zero_add] at e
    rw [State.touchResults_of_drawn hs hd, Nat.zero_add] at hb
    simp only [iterateState, hdrop, List.take_succ_cons, touchSamples, State.touchBlockEvents, State.touchResults,
      Nat.zero_add]
    refine ⟨?_, ?_, fun _ => hl rfl⟩
    · rw [e]
      simp [State.touchedInPlace, State.touched, Nat.add_assoc]
    · rw [hb]
      simp only [State.touchedInPlace, hc, Vector.toList_setIfInBounds]
      rw [List.take_succ_eq_append_getElem (by simp [hlen]; omega), List.drop_set_of_lt (by omega)]
      simp [List.take_set_of_le, Nat.add_assoc, Nat.add_comm 1 n]

/-- "high = bit 1, low = bit 0" (41_transport.md R134). -/
theorem bitOfLevel_eq (l : Level) : bitOfLevel l = decide (l = .high) := by cases l <;> rfl

/-- Bit `i` of a byte given by a function of the bit number. -/
theorem byteOfBits_apply (f : Nat → Bool) {i : Nat} (hi : i < 8) :
    (byteOfBits (f 0) (f 1) (f 2) (f 3) (f 4) (f 5) (f 6) (f 7)).getLsbD i = f i := by
  obtain ⟨h0, h1, h2, h3, h4, h5, h6, h7⟩ := byteOfBits_bit (f 0) (f 1) (f 2) (f 3) (f 4) (f 5) (f 6) (f 7)
  rcases eight_cases hi with rfl | rfl | rfl | rfl | rfl | rfl | rfl | rfl <;> assumption

/-- Bit `i` of a received byte is its i-th sample. -/
theorem State.byteAt_bit (s : State) (k : Nat) {i : Nat} (hi : i < 8) :
    (s.byteAt k).getLsbD i = decide (s.level (k + i) = .high) :=
  (byteOfBits_apply (fun i => s.bitAt (k + i)) hi).trans (bitOfLevel_eq _)

/-- Bit `i` of the result of `TouchByte(x)`. -/
theorem State.touchResult_bit (s : State) (k : Nat) (x : Byte) {i : Nat} (hi : i < 8) :
    (s.touchResult k x).getLsbD i = (x.getLsbD i && decide (s.level (k + onesBelow x i) = .high)) := by
  rw [← bitOfLevel_eq]
  exact byteOfBits_apply (fun i => s.touchedBit k x i) hi

end Sys2Proof.Machine
end

