-- ==== Sys2Proof/Tests/Slice0.lean ====
section
/-! SUPPORT. The model's own tests and the witnesses that the statements' hypotheses can be met. Expected values are the
vectors of 95_test_vectors.md (their numbers stand in the docstrings) or words written out by hand from 30_encoding.md. -/

open Sys2Proof Sys2Proof.Machine Sys2Proof.Claims

namespace Sys2Proof.Tests

set_option maxRecDepth 100000

/-! ### Helpers -/

/-- The reset state with these answers scripted for the line. -/
def onLine (ls : List Level) : State := { State.reset with samples := ls }

/-- The samples of one received byte, bit 0 first. -/
def bits (x : Byte) : List Level := (List.range 8).map fun i => if x.getLsbD i then .high else .low

/-- The samples of a page read whose resets detect presence. -/
def pageLine (xs : List Byte) : List Level := [.low, .low] ++ xs.flatMap bits

/-- What `f` reads from the next state of an outcome. -/
def seen {α : Type} (o : Host.Outcome State Fault Refusal) (f : State → α) : Option α :=
  match o with
  | .next t => some (f t)
  | .fault _ => none
  | .refused _ => none

/-- Nine received bytes in BUF. -/
def page (b0 b8 : Byte) : List Byte := [b0, 0x00, 0x19, 0x88, 0x03, 0x0A, 0x00, 0x40, b8]

/-- The page of P4 and P6. -/
def idlePage (b0 b8 : Byte) : List Byte := [b0, 0x00, 0x19, 0x88, 0x03, 0x0A, 0x00, 0x00, b8]

/-! ### WellFormed refuses ill-formed operands (30_encoding.md R91, R100) -/

theorem test_wellFormed_len : Instr.wellFormed (.crc8Compute 10) = false ∧ Instr.wellFormed (.crc8Check 0xA2 10) = false ∧
    Instr.wellFormed (.touchBlock 15) = false ∧ Instr.wellFormed (.touchBlock 9) = true := by decide

theorem test_wellFormed_page : Instr.wellFormed (.readPage 8) = false ∧ Instr.wellFormed (.writePage 8) = false ∧
    Instr.wellFormed (.readPage 7) = true ∧ Instr.wellFormed (.writePage 7) = true := by decide

theorem test_wellFormed_bit : Instr.wellFormed (.writeBit 2) = false ∧ Instr.wellFormed (.writeBit 1) = true := by decide

theorem test_wellFormed_source : Instr.wellFormed (.selectInputSource 2 false) = false ∧
    Instr.wellFormed (.selectInputSource 1 true) = true := by decide

theorem test_wellFormed_threshold : Instr.wellFormed (.writeThreshold 4) = false ∧
    Instr.wellFormed (.writeThreshold 3) = true := by decide

/-! ### Every constructor's word, written out from 30_encoding.md R90 and R96 -/

/-- CRC8 Engine: OP 0x01 and 0x02, ARG in bits 15:8, LEN in bits 23:20 (V-E6, V-E7). -/
theorem test_decode_crc8 :
    decode 0b0000_0000_1000_0000_0000_0000_0000_0001#32 = .ok (.crc8Compute 8) ∧
    decode 0b0000_0000_0111_0000_1010_0010_0000_0010#32 = .ok (.crc8Check 0xA2 7) := by decide

/-- Bus Transport: OP 0x10 to 0x16 (V-E1 to V-E5). -/
theorem test_decode_transport :
    decode 0b0000_0000_0000_0000_0000_0000_0001_0000#32 = .ok .reset ∧
    decode 0b0000_0000_0000_0000_0000_0001_0001_0001#32 = .ok (.writeBit 1) ∧
    decode 0b0000_0000_0000_0000_0000_0000_0001_0010#32 = .ok .readBit ∧
    decode 0b0000_0000_0000_0000_1100_1100_0001_0011#32 = .ok (.writeByte 0xCC) ∧
    decode 0b0000_0000_0000_0000_0000_0000_0001_0100#32 = .ok .readByte ∧
    decode 0b0000_0000_0000_0000_1010_0101_0001_0101#32 = .ok (.touchByte 0xA5) ∧
    decode 0b0000_0000_0010_0000_0000_0000_0001_0110#32 = .ok (.touchBlock 2) := by decide

/-- Transaction Layer: OP 0x20 to 0x2E, CRC in bit 16 (V-E8 to V-E11, V-E15, V-E16). -/
theorem test_decode_transactions :
    decode 0b0000_0000_0000_0000_0000_0000_0010_0000#32 = .ok .devicePresent ∧
    decode 0b0000_0000_0000_0001_0000_0000_0010_0001#32 = .ok (.readRom true) ∧
    decode 0b0000_0000_0000_0000_0000_0000_0010_0010#32 = .ok (.readSerialNumber false) ∧
    decode 0b0000_0000_0000_0000_0000_0000_0010_0011#32 = .ok .startVoltageConversion ∧
    decode 0b0000_0000_0000_0000_0000_0000_0010_0100#32 = .ok .startTemperatureConversion ∧
    decode 0b0000_0000_0000_0000_0000_0011_0010_0101#32 = .ok (.readPage 3) ∧
    decode 0b0000_0000_0000_0000_0000_0011_0010_0110#32 = .ok (.writePage 3) ∧
    decode 0b0000_0000_0000_0001_0000_0000_0010_0111#32 = .ok (.hasVoltageData true) ∧
    decode 0b0000_0000_0000_0000_0000_0000_0010_1000#32 = .ok (.hasTemperatureData false) ∧
    decode 0b0000_0000_0000_0000_0000_0000_0010_1001#32 = .ok (.readVoltage false) ∧
    decode 0b0000_0000_0000_0001_0000_0000_0010_1010#32 = .ok (.readTemperature true) ∧
    decode 0b0000_0000_0000_0000_0000_0000_0010_1011#32 = .ok .copyInProgress ∧
    decode 0b0000_0000_0000_0001_0000_0000_0010_1100#32 = .ok (.readThreshold true) ∧
    decode 0b0000_0000_0000_0000_0000_0000_0010_1101#32 = .ok (.getIca false) ∧
    decode 0b0000_0000_0000_0001_0000_0000_0010_1110#32 = .ok (.getCapacity true) := by decide

/-- Flag manipulation: OP 0x30 to 0x37 (V-E12 to V-E14, V-E17). -/
theorem test_decode_flags :
    decode 0b0000_0000_0000_0001_0000_0001_0011_0000#32 = .ok (.selectInputSource 1 true) ∧
    decode 0b0000_0000_0000_0000_0000_0000_0011_0001#32 = .ok .enableIad ∧
    decode 0b0000_0000_0000_0000_0000_0000_0011_0010#32 = .ok .disableIad ∧
    decode 0b0000_0000_0000_0000_0000_0000_0011_0011#32 = .ok .enableCa ∧
    decode 0b0000_0000_0000_0000_0000_0000_0011_0100#32 = .ok .disableCa ∧
    decode 0b0000_0000_0000_0000_0000_0000_0011_0101#32 = .ok .enableShadowEe ∧
    decode 0b0000_0000_0000_0000_0000_0000_0011_0110#32 = .ok .disableShadowEe ∧
    decode 0b0000_0000_0000_0000_0000_0010_0011_0111#32 = .ok (.writeThreshold 2) := by decide

/-- Decode Layer: OP 0x40 to 0x43 (V-E18). -/
theorem test_decode_decodes :
    decode 0b0000_0000_0000_0000_0000_0000_0100_0000#32 = .ok .decodeTemperature ∧
    decode 0b0000_0000_0000_0000_0000_0000_0100_0001#32 = .ok .decodeVoltage ∧
    decode 0b0000_0000_0000_0000_0000_0000_0100_0010#32 = .ok .decodeCurrent ∧
    decode 0b0000_0000_0000_0000_0000_0000_0100_0011#32 = .ok .decodeCapacity := by decide

/-- V-E20 to V-E29: reserved words, each refused under the name of its reason. -/
theorem test_decode_reserved :
    decode 0x00000000#32 = .error .unknownOp ∧ decode 0x0000002F#32 = .error .unknownOp ∧
    decode 0x000000FF#32 = .error .unknownOp ∧ decode 0x00000110#32 = .error .argNotZero ∧
    decode 0x00010025#32 = .error .crcNotZero ∧ decode 0x00100040#32 = .error .lenNotZero ∧
    decode 0x00A00001#32 = .error .lenOutOfRange ∧ decode 0x00000211#32 = .error .bitOutOfRange ∧
    decode 0x00020021#32 = .error .reservedBits ∧ decode 0x01000010#32 = .error .reservedBits := by decide

/-- V-E30 to V-E33: the source's own value checks are the operations', not the decoder's. -/
theorem test_decode_value_checks :
    decode 0x00000825#32 = .ok (.readPage 8) ∧ decode 0x00000826#32 = .ok (.writePage 8) ∧
    decode 0x00000230#32 = .ok (.selectInputSource 2 false) ∧ decode 0x00000437#32 = .ok (.writeThreshold 4) := by decide

/-- The masks as 30_encoding.md R96 lists them, in the table's order. -/
theorem test_opcode_rows_masks : opcodeRows.map Prod.snd =
    [0xFF0FFFFF#32, 0xFF0F00FF#32] ++
    [0xFFFFFFFF#32, 0xFFFF00FF#32, 0xFFFFFFFF#32, 0xFFFF00FF#32, 0xFFFFFFFF#32, 0xFFFF00FF#32, 0xFF0FFFFF#32] ++
    [0xFFFFFFFF#32, 0xFFFEFFFF#32, 0xFFFEFFFF#32, 0xFFFFFFFF#32, 0xFFFFFFFF#32, 0xFFFF00FF#32, 0xFFFF00FF#32] ++
    [0xFFFEFFFF#32, 0xFFFEFFFF#32, 0xFFFEFFFF#32, 0xFFFEFFFF#32, 0xFFFFFFFF#32, 0xFFFEFFFF#32, 0xFFFEFFFF#32] ++
    [0xFFFEFFFF#32] ++
    [0xFFFE00FF#32, 0xFFFFFFFF#32, 0xFFFFFFFF#32, 0xFFFFFFFF#32, 0xFFFFFFFF#32, 0xFFFFFFFF#32, 0xFFFFFFFF#32] ++
    [0xFFFF00FF#32] ++ [0xFFFFFFFF#32, 0xFFFFFFFF#32, 0xFFFFFFFF#32, 0xFFFFFFFF#32] := by decide

/-- A fetched word runs as the first operation after reset. -/
theorem test_withFetchWord_runs :
    decodeTableWord 32 0x00000042 = some .decodeCurrent ∧
    seen (step (State.reset.withFetchWord 32 0x00000042)) (fun t => (t.done, t.result)) = some (true, .ok) := by decide

/-! ### CRC8 Engine -/

/-- V-C3, V-C5, V-C6, V-C9, V-C17, V-C19. -/
theorem test_crc8_vectors : crc8 [0x01] = 0x5E ∧ crc8 [0xFF] = 0x35 ∧ crc8 [0x02, 0x1C, 0xB8, 0x01, 0, 0, 0] = 0xA2 ∧
    crc8 [0x31, 0x32, 0x33, 0x34, 0x35, 0x36, 0x37, 0x38, 0x39] = 0xA1 ∧
    crc8 [0x11, 0x22, 0x33, 0x44, 0x55, 0x66, 0x77, 0x88] = 0x7B ∧ crc8 (List.replicate 8 0xFF) = 0xC9 := by decide

/-- The ROM bytes of V-C6 in BUF. -/
def romBytesInBuf : State := { State.reset with buf := #v[0x02, 0x1C, 0xB8, 0x01, 0, 0, 0, 0x55, 0x66] }

theorem test_crc8Compute : seen (exec (.crc8Compute 7) romBytesInBuf) (fun t => (t.result, t.rval, t.crcreg, t.pins)) =
    some (.ok, 0xA2, 0xA2, []) := by decide

theorem test_crc8Check : seen (exec (.crc8Check 0xA2 7) romBytesInBuf) (fun t => (t.result, t.rval)) = some (.ok, 1) ∧
    seen (exec (.crc8Check 0xA3 7) romBytesInBuf) (fun t => (t.result, t.rval, t.crcreg)) = some (.ok, 0, 0xA2) := by decide

/-! ### Bus Transport -/

/-- V-P1, V-P2. -/
theorem test_reset : seen (exec .reset (onLine [.low])) (fun t => (t.result, t.rval, t.presence, t.bus, t.pins)) =
      some (.ok, 1, true, [.rst .low], [.dly 0, .dl, .dly 480, .rl, .dly 70, .smp .low, .dly 410]) ∧
    seen (exec .reset (onLine [.high])) (fun t => (t.result, t.rval, t.presence)) = some (.deviceNotFound, 0, false) :=
  ⟨by decide, by decide⟩

/-- V-P3. -/
theorem test_writeBit : seen (exec (.writeBit 1) State.reset) (fun t => (t.bus, t.pins)) =
      some ([.w true], [.dl, .dly 6, .rl, .dly 64]) ∧
    seen (exec (.writeBit 0) State.reset) (fun t => (t.bus, t.pins)) =
      some ([.w false], [.dl, .dly 60, .rl, .dly 10]) := by decide

/-- V-P4. -/
theorem test_readBit : seen (exec .readBit (onLine [.high])) (fun t => (t.rval, t.pins)) =
      some (1, [.dl, .dly 6, .rl, .dly 9, .smp .high, .dly 55]) ∧
    seen (exec .readBit (onLine [.low])) (fun t => (t.rval, t.bus)) = some (0, [.r .low]) := by decide

/-- V-B1. -/
theorem test_writeByte : seen (exec (.writeByte 0xCC) State.reset) (fun t => (t.rval, t.drawn, t.bus)) =
    some (0, 0, [.w false, .w false, .w true, .w true, .w false, .w false, .w true, .w true]) := by decide

/-- V-B4. -/
theorem test_readByte : seen (exec .readByte (onLine [.high, .low, .low, .high, .high, .low, .high, .low]))
    (fun t => (t.rval, t.drawn)) = some (0x59, 8) := by decide

/-- V-B6. -/
theorem test_touchByte : seen (exec (.touchByte 0xA5) (onLine [.high, .low, .high, .high])) (fun t => (t.rval, t.bus)) =
    some (0xA1, [.r .high, .w false, .r .low, .w false, .w false, .r .high, .w false, .r .high]) := by decide

/-- V-B12. -/
theorem test_touchBlock :
    seen (exec (.touchBlock 2) { onLine [.high, .low, .high, .high, .low, .low, .low, .low] with
      buf := #v[0xA5, 0x0F, 0x77, 0, 0, 0, 0, 0, 0] }) (fun t => (t.rval, t.drawn, t.buf)) =
    some (0, 8, #v[0xA1, 0x00, 0x77, 0, 0, 0, 0, 0, 0]) := by decide

/-! ### Transaction Layer -/

/-- P5 step 1. -/
theorem test_devicePresent : seen (exec .devicePresent (onLine [.high])) (fun t => (t.result, t.rval, t.bus)) =
    some (.deviceNotFound, 0, [.rst .high]) := by decide

/-- P1 and its variant with ROM[7] = A3 (V-T6, V-T7). -/
def romLine (crc : Byte) : State := onLine (.low :: [0x02, 0x1C, 0xB8, 0x01, 0, 0, 0, crc].flatMap bits)

theorem test_readRom : seen (exec (.readRom true) (romLine 0xA2)) (fun t => (t.result, t.rval, t.crcreg, t.rom)) =
    some (.ok, 0, 0xA2, #v[0x02, 0x1C, 0xB8, 0x01, 0, 0, 0, 0xA2]) := by decide

theorem test_readRom_crcFail : seen (exec (.readRom true) (romLine 0xA3)) (fun t => (t.result, t.crcreg, t.rom[7])) =
      some (.crcFail, 0xA2, 0xA3) ∧
    seen (exec (.readRom false) (romLine 0xA3)) (fun t => (t.result, t.crcreg)) = some (.ok, 0) := by decide

/-- P1 step 3. -/
theorem test_readSerialNumber : seen (exec (.readSerialNumber true) (romLine 0xA2))
    (fun t => (t.result, t.serial 0, t.serial 1, t.serial 2, t.serial 3, t.serial 5)) =
    some (.ok, 0x1C, 0xB8, 0x01, 0, 0) := by decide

/-- V-T4, V-T5. -/
theorem test_startConversions :
    seen (exec .startVoltageConversion (onLine [.low])) (fun t => (t.result, t.bus)) =
      some (.ok, .rst .low :: (wb 0xCC ++ wb 0xB4)) ∧
    seen (exec .startTemperatureConversion (onLine [.low])) (fun t => (t.result, t.bus)) =
      some (.ok, .rst .low :: (wb 0xCC ++ wb 0x44)) := by decide

/-- P2 step 4: the page, and the 50 slots before its first byte. -/
theorem test_readPage :
    seen (exec (.readPage 3) (onLine (pageLine [0x11, 0x22, 0x33, 0x44, 0x55, 0x66, 0x77, 0x88, 0x7B])))
      (fun t => (t.result, t.buf, t.bus.take 50, t.bus.length)) =
    some (.ok, #v[0x11, 0x22, 0x33, 0x44, 0x55, 0x66, 0x77, 0x88, 0x7B],
      [.rst .low] ++ wb 0xCC ++ wb 0xB8 ++ wb 0x03 ++ [.rst .low] ++ wb 0xCC ++ wb 0xBE ++ wb 0x03, 122) := by decide

/-- V-T2. -/
theorem test_readPage_second_reset_fails : seen (exec (.readPage 5) (onLine [.low, .high]))
    (fun t => (t.result, t.buf, t.bus)) =
    some (.deviceNotFound, State.reset.buf, [.rst .low] ++ wb 0xCC ++ wb 0xB8 ++ wb 0x05 ++ [.rst .high]) := by decide

/-- P2 step 2 and V-T3. -/
def dataInBuf (ls : List Level) : State :=
  { onLine ls with buf := #v[0x11, 0x22, 0x33, 0x44, 0x55, 0x66, 0x77, 0x88, 0x99] }

theorem test_writePage : seen (exec (.writePage 3) (dataInBuf [.low, .low])) (fun t => (t.result, t.bus)) =
    some (.ok, [.rst .low] ++ wb 0xCC ++ wb 0x4E ++ wb 0x03 ++ wb 0x11 ++ wb 0x22 ++ wb 0x33 ++ wb 0x44 ++ wb 0x55 ++
      wb 0x66 ++ wb 0x77 ++ wb 0x88 ++ wb 0x99 ++ [.rst .low] ++ wb 0xCC ++ wb 0x48 ++ wb 0x03) := by decide

theorem test_writePage_copy_not_sent : seen (exec (.writePage 3) (dataInBuf [.low, .high]))
    (fun t => (t.result, t.bus.length, t.bus[97]?)) = some (.deviceNotFound, 98, some (.rst .high)) := by decide

/-- V-T12, V-T11. -/
theorem test_hasVoltageData :
    seen (exec (.hasVoltageData false) (onLine (pageLine (idlePage 0x40 0x93)))) (fun t => (t.result, t.rval)) =
      some (.error, 0) ∧
    seen (exec (.hasVoltageData true) (onLine (pageLine (List.replicate 9 0)))) (fun t => t.result) = some .ok := by
  decide

/-- V-T14, V-T15. -/
theorem test_hasTemperatureData :
    seen (exec (.hasTemperatureData true) (onLine (pageLine (idlePage 0x10 0x8E)))) (fun t => t.result) = some .error ∧
    seen (exec (.hasTemperatureData true) (onLine (pageLine (idlePage 0x10 0x8F)))) (fun t => t.result) = some .crcFail := by
  decide

/-- P4 step 2: 9.04 V, five resets and 144 read slots. -/
theorem test_readVoltage :
    seen (exec (.readVoltage true) (onLine (.low :: (pageLine (idlePage 0 0xDA) ++ pageLine (idlePage 0 0xDA)))))
      (fun t => (t.result, t.rval, t.pollcnt, t.drawn)) = some (.ok, 904, 1, 149) := by decide

/-- P4 step 1, its first poll: the busy bit is set, so the operation goes on. -/
theorem test_readTemperature_busy :
    seen (exec (.readTemperature true) { onLine (.low :: pageLine (idlePage 0x10 0x8E)) with busy := true })
      (fun t => (t.busy, t.done, t.pollcnt, t.drawn)) = some (true, false, 1, 75) := by decide

/-- The temperature of P4 when the first poll is ready: 25 degrees. -/
theorem test_readTemperature :
    seen (exec (.readTemperature false) (onLine (.low :: (pageLine (idlePage 0 0xDA) ++ pageLine (idlePage 0 0xDA)))))
      (fun t => (t.result, t.rval)) = some (.ok, 800) := by decide

/-- V-T16. -/
theorem test_copyInProgress :
    seen (exec .copyInProgress (onLine (pageLine (page 0x20 0)))) (fun t => (t.result, t.rval)) = some (.ok, 1) ∧
    seen (exec .copyInProgress (onLine (pageLine (page 0x0A 0)))) (fun t => (t.result, t.rval)) = some (.ok, 0) := by decide

/-- V-T9, V-T10. -/
theorem test_readThreshold :
    seen (exec (.readThreshold true) (onLine (pageLine (List.replicate 9 0xFF)))) (fun t => (t.result, t.rval, t.crcreg)) =
      some (.crcFail, 0, 0xC9) ∧
    seen (exec (.readThreshold false) (onLine (pageLine (List.replicate 9 0xFF)))) (fun t => (t.result, t.rval)) =
      some (.ok, 3) := by decide

/-- V-T17, V-T18. -/
theorem test_getIca_getCapacity :
    seen (exec (.getIca true) (onLine (pageLine [0, 0, 0, 0, 0x7B, 0, 0, 0, 0x3C]))) (fun t => (t.result, t.rval)) =
      some (.ok, 123) ∧
    seen (exec (.getCapacity true) (onLine (pageLine [0, 0, 0, 0, 0x7B, 0, 0, 0, 0x3D]))) (fun t => (t.result, t.rval)) =
      some (.crcFail, 0) := by decide

/-! ### Flag manipulation -/

/-- The result, the buffer that an operation leaves (the nine bytes of its page write, where it writes) and the number
of samples it takes, where it reads this page 0. -/
def written (i : Instr) (xs : List Byte) : Option (ResultCode × Vector Byte 9 × Nat) :=
  seen (exec i (onLine (pageLine xs ++ [.low, .low]))) (fun t => (t.result, t.buf, t.drawn))

/-- V-F10, V-F12. -/
theorem test_selectInputSource :
    written (.selectInputSource 1 true) (page 0x02 0x1A) = some (.ok, #v[0x0A, 0, 0x19, 0x88, 3, 0x0A, 0, 0x40, 0x1A], 76) ∧
    written (.selectInputSource 1 true) (page 0x02 0x1B) = some (.crcFail, #v[0x02, 0, 0x19, 0x88, 3, 0x0A, 0, 0x40, 0x1B], 74) := by decide

/-- V-F1. -/
theorem test_enableIad :
    written .enableIad (page 0x0A 0x30) = some (.ok, #v[0x0B, 0, 0x19, 0x88, 3, 0x0A, 0, 0x40, 0x30], 76) := by decide

/-- V-F2. -/
theorem test_disableIad :
    written .disableIad (page 0x0B 0x73) = some (.ok, #v[0x0A, 0, 0x19, 0x88, 3, 0x0A, 0, 0x40, 0x73], 76) := by decide

/-- V-F4. -/
theorem test_enableCa :
    written .enableCa (page 0x01 0x55) = some (.ok, #v[0x03, 0, 0x19, 0x88, 3, 0x0A, 0, 0x40, 0x55], 76) := by decide

/-- V-F9. -/
theorem test_disableCa :
    written .disableCa (page 0xFF 0x55) = some (.ok, #v[0xFD, 0, 0x19, 0x88, 3, 0x0A, 0, 0x40, 0x55], 76) := by decide

/-- V-F6. -/
theorem test_enableShadowEe :
    written .enableShadowEe (page 0x08 0xB6) = some (.ok, #v[0x0C, 0, 0x19, 0x88, 3, 0x0A, 0, 0x40, 0xB6], 76) := by
  decide

/-- V-F7. -/
theorem test_disableShadowEe :
    written .disableShadowEe (page 0x0F 0x55) = some (.ok, #v[0x0B, 0, 0x19, 0x88, 3, 0x0A, 0, 0x40, 0x55], 76) := by
  decide

/-- V-F13. -/
theorem test_writeThreshold :
    written (.writeThreshold 3) [0x0A, 0, 0x19, 0x88, 3, 0x0A, 0, 0x7F, 0x55] =
      some (.ok, #v[0x0A, 0, 0x19, 0x88, 3, 0x0A, 0, 0xC0, 0x55], 76) := by decide

/-- The line of V-F14. -/
def pausedLine : State := onLine (pageLine (page 0x0B 0x73) ++ pageLine (page 0x0B 0x73) ++ [.low, .low, .low, .low])

/-- V-F14: the nested disable, then the threshold; the page is read twice and written twice (8 resets, 144 read slots). -/
theorem test_writeThreshold_pauses_iad :
    seen (exec (.writeThreshold 2) pausedLine)
      (fun t => (t.result, t.buf, t.drawn)) =
    some (.ok, #v[0x0A, 0, 0x19, 0x88, 3, 0x0A, 0, 0x80, 0x73], 152) := by decide

/-! ### Decode Layer -/

/-- RVAL as a signed integer after decoding a page with these bytes 1 to 6. -/
def decoded (i : Instr) (b1 b2 b3 b4 b5 b6 : Byte) : Option Int :=
  seen (exec i { State.reset with buf := #v[0, b1, b2, b3, b4, b5, b6, 0, 0] }) (fun t => t.rval.toInt)

/-- V-D2, V-D5. -/
theorem test_decodeTemperature : decoded .decodeTemperature 0xF8 0xFF 0xFF 0xFF 0xF6 0x03 = some (-1) ∧
    decoded .decodeTemperature 0x00 0x80 0 0 0x00 0x02 = some (-4096) := by decide

/-- V-D1, V-D2. -/
theorem test_decodeVoltage : decoded .decodeVoltage 0x00 0x19 0x88 0x03 0x0A 0x00 = some 904 ∧
    decoded .decodeVoltage 0xF8 0xFF 0xFF 0xFF 0xF6 0x03 = some 65535 := by decide

/-- V-D2, V-D3, V-D5, V-D6, V-D7. -/
theorem test_decodeCurrent_negative : decoded .decodeCurrent 0xF8 0xFF 0xFF 0xFF 0xF6 0x03 = some (-9) ∧
    decoded .decodeCurrent 0xFF 0xFF 0 0 0xF6 0xFF = some (-9) ∧ decoded .decodeCurrent 0 0x80 0 0 0x00 0x02 = some (-511) ∧
    decoded .decodeCurrent 7 0 0 0 0xFF 0x03 = some 0 ∧ decoded .decodeCurrent 8 0 0 0 0x00 0xFD = some (-768) := by decide

/-- V-D1, V-D12, V-D14. -/
theorem test_decodeCurrent_positive : decoded .decodeCurrent 0x00 0x19 0x88 0x03 0x0A 0x00 = some 10 ∧
    decoded .decodeCurrent 0 0 0 0 0xFF 0x7D = some 32255 ∧ decoded .decodeCurrent 0 0 0 0 0 0x80 = some (-32768) := by decide

theorem test_decodeCapacity : decoded .decodeCapacity 0 0 0 0x7B 0 0 = some 123 ∧
    decoded .decodeCapacity 0 0 0 0xFF 0 0 = some 255 := by decide

/-! ### CRCREG while the CRC runs -/

/-- The step trace of 95_test_vectors.md 2.2: `crc8([01])`, CRCREG after `j` of its eight bits. -/
def crcTrace (j : Nat) : Byte :=
  (State.ticks (3 + j) { State.reset with
    buf := #v[1, 0, 0, 0, 0, 0, 0, 0, 0], crcreg := 0xFF, cmd := 0x00100001, busy := true, seq := .issued }).crcreg

theorem test_crcreg_trace : (List.range 9).map crcTrace = [0x00, 0x8C, 0x46, 0x23, 0x9D, 0xC2, 0x61, 0xBC, 0x5E] := by decide

/-! ### Handshake and reset -/

/-- V-H2: STATUS while the operation runs, and after it. -/
theorem test_status_while_busy :
    seen (step { State.reset with agenda := [.write 0x00 0x10] }) State.statusWord = some 0x1 ∧
    seen (exec .reset { onLine [.low] with busy := true }) State.statusWord = some 0x6 := by decide

/-- V-H3. -/
theorem test_writes_while_busy_ignored :
    seen (step { State.reset with busy := true, seq := .issued, agenda := [.write 0x22 0xAB] }) (fun t => t.buf) =
      some State.reset.buf ∧
    seen (step { State.reset with busy := true, seq := .issued, cmd := 0x10, agenda := [.write 0x00 0x42] }) (fun t => t.cmd) =
      some 0x10 := by decide

/-- V-H6: `rst` inside a reset slot, the line held low, releases it at once. -/
def midReset : State :=
  { onLine [.low] with busy := true, seq := .running seqReset, rval := 7, agenda := [.rst 3] }

theorem test_rst_mid_slot : seen (step midReset) (fun t => (t.busy, t.done, t.rval, t.lineDrv, t.pins)) =
    some (false, false, 0, false, [.dly 0, .dl, .dly 480, .rl]) := by decide

/-! ### Witnesses: for every statement with hypotheses, states and operands that meet them -/

theorem witness_RstRestoresResetState : midReset.agenda = .rst 3 :: [] ∧ midReset.LineReleased ∧
    ({ midReset with agenda := [.rst 0] } : State).agenda = .rst 0 :: [] := by decide

/-- The reset state with these turns to come. -/
def withTurn (t : Turn) : State := { State.reset with agenda := [t] }

theorem witness_HostWriteToCmdIssues :
    (withTurn (.write 0x00 0x10)).busy = false ∧ (withTurn (.write 0x00 0x10)).agenda = .write 0x00 0x10 :: [] := by decide

theorem witness_HostWritesReachOnlyCmdAndBuf :
    ({ withTurn (.write 0x20 0xFFF) with busy := true } : State).busy = true ∧
    (withTurn (.write 0x20 0xFFF)).agenda = .write 0x20 0xFFF :: [] ∧ (withTurn (.write 0x20 0xFFF)).busy = false ∧
    (0x20#6).toNat = 0x20 + (0 : Fin 9).val ∧ (0x28#6).toNat = 0x20 + (8 : Fin 9).val ∧
    (0x1F#6 ≠ 0x00#6 ∧ (0x1F#6).toNat < 0x20) ∧ (0x29#6 ≠ 0x00#6 ∧ 0x28 < (0x29#6).toNat) := by decide

theorem witness_HostReadsFollowRegisterMap :
    (withTurn (.read 0x00)).agenda = .read 0x00 :: [] ∧ (withTurn (.read 0x00)).busy = false ∧
    (0x28#6).toNat = 0x20 + (8 : Fin 9).val ∧ (0x20#6).toNat = 0x20 + (0 : Fin 9).val ∧
    (0x37#6).toNat = 0x30 + (7 : Fin 8).val ∧ (0x30#6).toNat = 0x30 + (0 : Fin 8).val ∧
    (∀ off ∈ [0x01#6, 0x14#6, 0x1F#6, 0x29#6, 0x2F#6, 0x38#6, 0x3F#6], off.toNat ∉ [0x00, 0x04, 0x08, 0x0C, 0x10] ∧
      (off.toNat < 0x20 ∨ 0x28 < off.toNat) ∧ (off.toNat < 0x30 ∨ 0x37 < off.toNat)) := by decide

theorem witness_StepRunsDecodedOperation : (State.reset.withFetchWord 32 0x10).busy = true ∧
    (State.reset.withFetchWord 32 0x10).seq = .issued ∧ (State.reset.withFetchWord 32 0x10).agenda = [] ∧
    decode (State.reset.withFetchWord 32 0x10).cmd = .ok .reset := by decide

theorem witness_ReservedWordCompletesWithBadParam : (State.reset.withFetchWord 32 0x2F).busy = true ∧
    (State.reset.withFetchWord 32 0x2F).seq = .issued ∧ (State.reset.withFetchWord 32 0x2F).agenda = [] ∧
    decode (State.reset.withFetchWord 32 0x2F).cmd = .error .unknownOp := by decide

theorem witness_DecodeOfEncodeIsIdentity : Instr.wellFormed (.crc8Check 0xA2 9) = true := by decide

theorem witness_EncodeOfDecodeIsIdentity : decode 0x0090A202#32 = .ok (.crc8Check 0xA2 9) := by decide

theorem witness_ExactlyOneRowSelectsADecodedWord :
    (0x10#32, rowMask false false false) ∈ opcodeRows ∧ rowSelects (0x10, rowMask false false false) 0x10 = true ∧
    decode 0x10#32 = .ok .reset ∧ (∀ row ∈ opcodeRows, rowSelects row 0x2F#32 = false) := by
  have none_selects : opcodeRows.all (fun row => !rowSelects row 0x2F#32) = true := by decide
  exact ⟨by decide, by decide, by decide, fun row h => by simpa using List.all_eq_true.mp none_selects row h⟩

theorem witness_Crc8ComputeResult : (9#4).toNat ≤ 9 ∧ (0#4).toNat ≤ 9 ∧ 9 < (10#4).toNat := by decide

theorem witness_Crc8CheckResult : (9#4).toNat ≤ 9 ∧ (0#4).toNat ≤ 9 ∧ 9 < (10#4).toNat := by decide

/-- The evaluations start: `crc8_compute(9)`, a ROM read and a page read with presence and validation, and a blocking read. -/
theorem witness_CrcregHoldsRunningCrc :
    decode (State.reset.withFetchWord 32 0x00900001).cmd = .ok (.crc8Compute 9) ∧
    decode (State.reset.withFetchWord 32 0x0090A202).cmd = .ok (.crc8Check 0xA2 9) ∧
    (decode ((onLine [.low]).withFetchWord 32 0x00010021).cmd = .ok (.readRom true) ∧
      ((onLine [.low]).withFetchWord 32 0x00010021).seq = .issued ∧
      ((onLine [.low]).withFetchWord 32 0x00010021).level 0 = .low) ∧
    (decode ((onLine [.low, .low]).withFetchWord 32 0x0001002C).cmd = .ok (.readThreshold true) ∧
      .readThreshold true ∈ checkedPageReads ∧ resetsLow ((onLine [.low, .low]).withFetchWord 32 0x0001002C) 0) ∧
    (decode ((onLine [.low, .low, .low]).withFetchWord 32 0x0001002A).cmd = .ok (.readTemperature true) ∧
      resetsLow ((onLine [.low, .low, .low]).withFetchWord 32 0x0001002A) 1) := by decide

theorem witness_CrcIsLinear : ([0x02, 0x1C] : List Byte).length = ([0xA2, 0x00] : List Byte).length := by decide

theorem witness_SingleBitFlipChangesCrc : 0 < 8 ∧ 7 < 8 := by decide

theorem witness_ResetAndDevicePresentResult : (onLine [.low]).level 0 = .low ∧ (onLine [.high]).level 0 = .high := by decide

theorem witness_WriteBitResult : (1#8 : Byte) = 1 ∧ (0#8 : Byte) = 0 ∧ 1 < (2#8).toNat ∧ 1 < (255#8).toNat := by decide

theorem witness_TouchByteConsequences :
    (∃ t, exec (.touchByte 0x0F) (onLine (List.replicate 8 .high)) = .next t) ∧
    (∀ k < 8, (onLine (List.replicate 8 .high)).level k = .high) := ⟨⟨_, rfl⟩, by decide⟩

theorem witness_TouchBlockResult : (9#4).toNat ≤ 9 ∧ (0#4).toNat ≤ 9 ∧ 9 < (10#4).toNat ∧ (onLine []).lineDrv = false := by
  decide

theorem witness_RomReadResult : (romLine 0xA3).level 0 = .low ∧ (onLine [.high]).level 0 = .high := by decide

theorem witness_StartConversionResult : (onLine [.low]).level 0 = .low ∧ (onLine [.high]).level 0 = .high := by decide

/-- The three ways the two resets of a page read can go. -/
theorem witness_abortsInPageRead : (onLine [.high]).level 0 = .high ∧
    ((onLine [.low, .high]).level 0 = .low ∧ (onLine [.low, .high]).level 1 = .high) ∧
    resetsLow (onLine [.low, .low]) 0 := by unfold resetsLow; decide

theorem witness_ReadPageResult : 7 < (8#8).toNat ∧ (7#8).toNat ≤ 7 ∧ (0#8).toNat ≤ 7 ∧ resetsLow (onLine [.low, .low]) 0 ∧
    (onLine [.high]).level 0 = .high ∧ (onLine [.low, .high]).level 0 = .low ∧ (onLine [.low, .high]).level 1 = .high := by
  unfold resetsLow; decide

theorem witness_WritePageResult : 7 < (8#8).toNat ∧ (7#8).toNat ≤ 7 ∧ (0#8).toNat ≤ 7 ∧ resetsLow (dataInBuf [.low, .low]) 0 ∧
    (onLine [.high]).level 0 = .high ∧ (dataInBuf [.low, .high]).level 0 = .low ∧ (dataInBuf [.low, .high]).level 1 = .high := by
  unfold resetsLow; decide

/-- Page 0 with its CRC wrong, busy, and ready. -/
theorem witness_ReadinessTestResult :
    (resetsLow (onLine (pageLine (idlePage 0x10 0x8F))) 0 ∧ crcOk true ((onLine (pageLine (idlePage 0x10 0x8F))).pageAt 2) = false) ∧
    (resetsLow (onLine (pageLine (idlePage 0x10 0x8E))) 0 ∧ crcOk true ((onLine (pageLine (idlePage 0x10 0x8E))).pageAt 2) = true) := by
  unfold resetsLow; decide

theorem witness_CopyInProgressResult : resetsLow (onLine (pageLine (page 0x20 0))) 0 := by unfold resetsLow; decide

theorem witness_ReadThresholdResult : resetsLow (onLine (pageLine (page 0x0A 0x30))) 0 := by unfold resetsLow; decide

theorem witness_IcaAndCapacityResult : resetsLow (onLine (pageLine (page 0x0A 0x30))) 0 := by unfold resetsLow; decide

/-- A start and a first poll that is ready, then a good page. -/
def readyAtOnce : State := onLine (.low :: (pageLine (idlePage 0 0xDA) ++ pageLine (idlePage 0 0xDA)))

theorem witness_BlockingReadWithFirstPollReady : (onLine [.high]).level 0 = .high ∧ readyAtOnce.level 0 = .low ∧
    pollReady .voltage true readyAtOnce 1 = true ∧ resetsLow readyAtOnce 75 := by decide

/-- A start and a first poll that is ready, then these samples. -/
def readyThen (ls : List Level) : State := onLine (.low :: (pageLine (idlePage 0 0xDA) ++ ls))

theorem witness_BlockingReadWithFirstPollReady_aborts :
    pollReady .voltage true (readyThen [.high]) 1 = true ∧ (readyThen [.high]).level 75 = .high ∧
    pollReady .voltage true (readyThen [.low, .high]) 1 = true ∧ (readyThen [.low, .high]).level 75 = .low ∧
    (readyThen [.low, .high]).level 76 = .high := by decide

/-- An issued `read_temperature(crc=1)`: a poll without presence, then a ready poll, then these samples. -/
def readyAtSecond (limit : Word) (ls : List Level) : State :=
  { (onLine (.low :: .high :: (pageLine (idlePage 0 0xDA) ++ ls))).withFetchWord 32 0x0001002A with
    cfg := { Config.default with pollLimit := limit } }

theorem witness_BlockingReadCompletesAfterBusyPolls :
    let s := readyAtSecond 2 (pageLine (idlePage 0 0xDA))
    blockingReadIssued .temperature true s ∧ 1 < s.cfg.pollLimit.toNat ∧
    (∀ n < 1, pollReady .temperature true s (pollStart s n) = false) ∧
    pollReady .temperature true s (pollStart s 1) = true ∧ resetsLow s (pollStart s 2) := by
  unfold blockingReadIssued; decide

/-- The same with unbounded polling and the final page read without presence at its first, or at its second, reset. -/
theorem witness_BlockingReadCompletesAfterBusyPolls_aborts :
    (readyAtSecond 0 [.high]).cfg.pollLimit = 0 ∧ blockingReadIssued .temperature true (readyAtSecond 0 [.high]) ∧
    pollReady .temperature true (readyAtSecond 0 [.high]) (pollStart (readyAtSecond 0 [.high]) 1) = true ∧
    (readyAtSecond 0 [.high]).level (pollStart (readyAtSecond 0 [.high]) 2) = .high ∧
    (readyAtSecond 0 [.low, .high]).level (pollStart (readyAtSecond 0 [.low, .high]) 2) = .low ∧
    (readyAtSecond 0 [.low, .high]).level (pollStart (readyAtSecond 0 [.low, .high]) 2 + 1) = .high := by
  unfold blockingReadIssued; decide

/-- In the readiness loop, with a poll that fails at its first reset and one whose page is busy. -/
def inLoop (ls : List Level) : State :=
  { onLine ls with busy := true, seq := .polling .temperature false (hasData .temperature false) }

theorem witness_FailedPollIsFollowedByAnother :
    ((inLoop [.high]).busy = true ∧ (inLoop [.high]).seq = .polling .temperature false (hasData .temperature false) ∧
      (inLoop [.high]).agenda = [] ∧ pollReady .temperature false (inLoop [.high]) 0 = false ∧
      (inLoop [.high]).cfg.pollLimit = 0) ∧
    pollReady .temperature false (inLoop (pageLine (idlePage 0x10 0x8E))) 0 = false ∧
    (({ inLoop [.high] with cfg := { Config.default with pollLimit := 2 } } : State).pollcnt + 1).toNat <
      ({ inLoop [.high] with cfg := { Config.default with pollLimit := 2 } } : State).cfg.pollLimit.toNat := by decide

/-- P6 (c) and (b): an issued `read_temperature(crc=0)` whose device is gone after the start frame. -/
def neverReady (limit : Word) : State :=
  { (onLine [.low, .high, .high, .high, .high]).withFetchWord 32 0x0000002A with
    cfg := { Config.default with pollLimit := limit } }

/-- A later poll of a validated blocking read, and its final page read, with presence at both resets. -/
theorem witness_CrcregHoldsRunningCrc_later :
    (({ onLine [.low, .low] with busy := true, seq := .polling .voltage true (hasData .voltage true) } : State).seq =
      .polling .voltage true (hasData .voltage true)) ∧
    (({ onLine [.low, .low] with busy := true, seq := .running (finalRead .voltage true) } : State).seq =
      .running (finalRead .voltage true)) ∧ resetsLow (onLine [.low, .low]) 0 := ⟨rfl, rfl, by decide⟩

/-- In the readiness loop with the bound of 2 reached by the second poll, which fails. -/
def atBound : State := { inLoop [.high] with cfg := { Config.default with pollLimit := 2 }, pollcnt := 1 }

theorem witness_PollLimitEndsInTimeout_step : atBound.busy = true ∧
    atBound.seq = .polling .temperature false (hasData .temperature false) ∧ atBound.agenda = [] ∧
    pollReady .temperature false atBound 0 = false ∧ 0 < atBound.cfg.pollLimit.toNat ∧
    atBound.cfg.pollLimit.toNat ≤ (atBound.pollcnt + 1).toNat := by decide

theorem witness_UnboundedPollNeverCompletes : blockingReadIssued .temperature false (neverReady 0) ∧
    (neverReady 0).cfg.pollLimit = 0 ∧
    (∀ n ≤ 2, pollReady .temperature false (neverReady 0) (pollStart (neverReady 0) n) = false) := by
  unfold blockingReadIssued; decide

theorem witness_PollLimitEndsInTimeout : blockingReadIssued .temperature false (neverReady 3) ∧
    (neverReady 3).cfg.pollLimit.toNat = 2 + 1 ∧ (neverReady 1).cfg.pollLimit.toNat = 0 + 1 ∧
    (∀ n ≤ 2, pollReady .temperature false (neverReady 3) (pollStart (neverReady 3) n) = false) := by
  unfold blockingReadIssued; decide

/-- A page-0 read with presence, then these samples. -/
def afterPage (b0 b8 : Byte) (ls : List Level) : State := onLine (pageLine (page b0 b8) ++ ls)

theorem witness_StatusBitToggleResult : (.enableIad, 0, true, 0x31) ∈ toggles ∧ (.disableShadowEe, 2, false, 0x36) ∈ toggles ∧
    (resetsLow (afterPage 0x0A 0x30 [.high]) 0 ∧ (afterPage 0x0A 0x30 [.high]).level 74 = .high) ∧
    (resetsLow (afterPage 0x0A 0x30 [.low, .high]) 0 ∧ (afterPage 0x0A 0x30 [.low, .high]).level 74 = .low ∧
      (afterPage 0x0A 0x30 [.low, .high]).level 75 = .high) ∧
    (resetsLow (afterPage 0x0A 0x30 [.low, .low]) 0 ∧ resetsLow (afterPage 0x0A 0x30 [.low, .low]) 74) := by
  unfold resetsLow; decide

theorem witness_SelectInputSourceResult : 1 < (2#8).toNat ∧ (1#8).toNat ≤ 1 ∧ (0#8).toNat ≤ 1 ∧
    (resetsLow (afterPage 0x02 0x1B []) 0 ∧ crcOk true ((afterPage 0x02 0x1B []).pageAt 2) = false) ∧
    (resetsLow (afterPage 0x02 0x1A [.high]) 0 ∧ crcOk true ((afterPage 0x02 0x1A [.high]).pageAt 2) = true ∧
      (afterPage 0x02 0x1A [.high]).level 74 = .high) ∧
    ((afterPage 0x02 0x1A [.low, .high]).level 74 = .low ∧ (afterPage 0x02 0x1A [.low, .high]).level 75 = .high) ∧
    resetsLow (afterPage 0x02 0x1A [.low, .low]) 74 := by unfold resetsLow; decide

theorem witness_WriteThresholdResult : 3 < (4#8).toNat ∧ (3#8).toNat ≤ 3 ∧ (0#8).toNat ≤ 3 ∧
    (resetsLow (afterPage 0x0A 0x30 [.low, .low]) 0 ∧ ((afterPage 0x0A 0x30 [.low, .low]).pageAt 2)[0].getLsbD 0 = false ∧
      resetsLow (afterPage 0x0A 0x30 [.low, .low]) 74) ∧
    (resetsLow pausedLine 0 ∧ (pausedLine.pageAt 2)[0].getLsbD 0 = true ∧ resetsLow pausedLine 74 ∧
      resetsLow pausedLine 148 ∧ resetsLow pausedLine 150) := by unfold resetsLow; decide

/-- Page 0 read with IAD clear, or twice with IAD set, then these samples. -/
def thresholdLine (iad : Bool) (ls : List Level) : State :=
  if iad then onLine (pageLine (page 0x0B 0x73) ++ pageLine (page 0x0B 0x73) ++ ls) else afterPage 0x0A 0x30 ls

theorem witness_WriteThresholdAborts : (3#8).toNat ≤ 3 ∧ resetsLow (thresholdLine false []) 0 ∧
    ((thresholdLine false []).pageAt 2)[0].getLsbD 0 = false ∧ (thresholdLine false [.high]).level 74 = .high ∧
    ((thresholdLine false [.low, .high]).level 74 = .low ∧ (thresholdLine false [.low, .high]).level 75 = .high) ∧
    ((afterPage 0x0B 0x73 []).pageAt 2)[0].getLsbD 0 = true ∧ (afterPage 0x0B 0x73 [.high]).level 74 = .high ∧
    ((afterPage 0x0B 0x73 [.low, .high]).level 74 = .low ∧ (afterPage 0x0B 0x73 [.low, .high]).level 75 = .high) ∧
    (((thresholdLine true []).pageAt 2)[0].getLsbD 0 = true ∧ resetsLow (thresholdLine true []) 74 ∧
      (thresholdLine true [.high]).level 148 = .high) ∧
    ((thresholdLine true [.low, .high]).level 148 = .low ∧ (thresholdLine true [.low, .high]).level 149 = .high) ∧
    (resetsLow (thresholdLine true [.low, .low, .high]) 148 ∧ (thresholdLine true [.low, .low, .high]).level 150 = .high) ∧
    ((thresholdLine true [.low, .low, .low, .high]).level 150 = .low ∧
      (thresholdLine true [.low, .low, .low, .high]).level 151 = .high) := by decide

theorem witness_DecodedValuesInRange : 1 < (0x02#8).toNat % 4 ∧ 1 < (0xFF#8).toNat % 4 := by decide

theorem witness_PhysicalValuesAreExact :
    1 < ({ State.reset with buf := #v[0, 0, 0, 0, 0, 0xF6, 0x03, 0, 0] } : State).buf[6].toNat % 4 := by decide

/-- The two kinds of NUMFMT. -/
theorem witness_PhysicalValuesAreExact_formats : State.reset.cfg.numFmt = .exact ∧
    ({ Config.default with numFmt := .floating ⟨0, 0⟩ [⟨1, 1⟩, ⟨1, 0⟩] } : Config).numFmt = .floating ⟨0, 0⟩ [⟨1, 1⟩, ⟨1, 0⟩] := by
  decide

theorem witness_IllegalOperandIsBadParam : Instr.wellFormed (.writeThreshold 4) = false := by decide

theorem witness_AbsentDeviceAbortsEveryTransaction : isTransaction .devicePresent = true ∧
    isTransaction (.writeThreshold 3) = true ∧ isTransaction .reset = false ∧ Instr.wellFormed (.writeThreshold 3) = true ∧
    (onLine [.high]).level 0 = .high := by decide

/-- Inside an issued operation: after 7 statements of `read_temperature`, and where running on from there leads. -/
theorem reaches_inside : reaches (.readTemperature false) (neverReady 1) (State.ticks 7 (neverReady 1)) ∧
    reaches (.readTemperature false) (neverReady 1) (State.ticks 7 (neverReady 1)).runOn :=
  ⟨.inr ⟨by decide, by decide, 7, .inl rfl⟩, .inr ⟨by decide, by decide, 7, .inr rfl⟩⟩

theorem witness_TransactionsWriteOnlyAfterPresence : isTransaction .startVoltageConversion = true ∧
    isTransaction (.readTemperature false) = true ∧
    ∃ t, exec .startVoltageConversion (onLine [.low]) = .next t := ⟨by decide, by decide, _, rfl⟩

theorem witness_ResultCodesAsTabled : Instr.wellFormed .reset = true ∧
    ∃ t, exec .reset (onLine [.high]) = .next t ∧ t.seq = .idle ∧ t.result ≠ .ok := ⟨by decide, _, rfl, by decide, by decide⟩

/-- A poll bound of 1 that one failed poll reaches. -/
theorem witness_ResultCodesAsTabled_timeout :
    ∃ t, exec (.readTemperature false) (neverReady 1) = .next t ∧ t.seq = .idle ∧ t.result = .timeout :=
  ⟨_, rfl, by decide, by decide⟩

theorem witness_RegistersChangeOnlyByTheirWriters : (∃ t, exec .readBit (onLine [.low]) = .next t) ∧
    writesBuf .readBit = false ∧ writesRom .readBit = false ∧ evaluatesCrc .readBit = false ∧ runsReset .readBit = false ∧
    countsPolls .readBit = false := ⟨⟨_, rfl⟩, by decide⟩

/-- An issued operation, busy, that has not completed. -/
theorem witness_RegistersChangeOnlyByTheirWriters_running : (neverReady 1).seq = .issued ∧ (neverReady 1).busy = true ∧
    (State.ticks 7 (neverReady 1)).seq ≠ .idle := by decide

theorem witness_OperationsReachTheLineOnlyBySlots :
    (onLine [.low]).lineDrv = false ∧ ∃ t, exec .readBit (onLine [.low]) = .next t := ⟨rfl, _, rfl⟩

/-- In the middle of a byte of a running operation, and with an operation issued. -/
theorem witness_EveryStepKeepsInvariant :
    ({ withTurn .slot with busy := true, seq := .running [.sendBit], bitcnt := 7, cmd := 0x13 } : State).Inv ∧
    (State.reset.withFetchWord 32 0x10).Inv ∧ midReset.Inv ∧
    ∃ t, step { withTurn .slot with busy := true, seq := .running [.sendBit], bitcnt := 7, cmd := 0x13 } = .next t :=
  ⟨by decide, by decide, by decide, _, rfl⟩

theorem witness_CoherentStateAlwaysSteps : State.reset.SeqMatchesBusy ∧ midReset.SeqMatchesBusy := by decide

theorem witness_ExecIsTheSequencerRunOn : ((onLine [.low]).withFetchWord 32 0x10).seq = .issued ∧
    decode ((onLine [.low]).withFetchWord 32 0x10).cmd = .ok .reset ∧
    ∃ t, exec .reset ((onLine [.low]).withFetchWord 32 0x10) = .next t := ⟨by decide, by decide, _, rfl⟩

theorem witness_TimingParametersDoNotMatter :
    ({ Config.default with tRSTL := 500 } : Config).pollLimit = (onLine [.low]).cfg.pollLimit ∧
    ∃ t, exec .reset (onLine [.low]) = .next t := ⟨by decide, _, rfl⟩

theorem witness_EarlierResultsDoNotMatter : (∃ t, exec .decodeVoltage State.reset = .next t ∧ t.seq = .idle ∧
      t.bus = State.reset.bus ++ []) ∧
    (∃ t, exec .reset (onLine [.low]) = .next t ∧ t.bus = (onLine [.low]).bus ++ [.rst .low]) ∧
    (∃ t, exec (.readTemperature false) (neverReady 0) = .next t ∧ t.seq ≠ .idle) :=
  ⟨⟨_, rfl, rfl, rfl⟩, ⟨_, rfl, rfl⟩, _, rfl, by decide⟩

theorem witness_WorkingRegistersDoNotMatter : ∃ t, exec (.readVoltage false) (onLine [.low]) = .next t := ⟨_, rfl⟩

end Sys2Proof.Tests
end

/-! The CRC function and the bit-serial algorithm (40_crc8.md R120, R121): the bytewise recursion of `crcFrom` is one fold
of `crcBit` over the input bits, from any start value. -/

namespace Sys2Proof.Proofs

open Sys2Proof Sys2Proof.Machine Sys2Proof.Claims

/-- The feedback bit of R120 is 1 exactly when the register's bit 0 differs from the input bit. -/
theorem crcBit_eq_ite (c : Byte) (d : Bool) :
    crcBit c d = if c.getLsbD 0 = d then c >>> 1 else (c >>> 1) ^^^ 0x8C#8 := by
  by_cases hbit : c.getLsbD 0 = d
  · have hfb : (c.getLsbD 0 ^^ d) = false := by rw [hbit, Bool.xor_self]
    rw [if_pos hbit, crcBit, hfb]; rfl
  · have hfb : (c.getLsbD 0 ^^ d) = true := Bool.xor_iff_ne.mpr hbit
    rw [if_neg hbit, crcBit, hfb]; rfl

theorem crcOfBits_eq_foldl_crcBit (bits : List Bool) : crcOfBits bits = bits.foldl crcBit 0 :=
  congrArg (fun f => bits.foldl f 0) (funext fun c => funext fun d => (crcBit_eq_ite c d).symm)

theorem inputBits_cons (x : Byte) (xs : List Byte) :
    inputBits (x :: xs) = (List.range 8).map (fun i => x.getLsbD i) ++ inputBits xs := List.flatMap_cons

theorem crcByte_eq_foldl_crcBit (c x : Byte) :
    crcByte c x = ((List.range 8).map fun i => x.getLsbD i).foldl crcBit c := rfl

theorem crcFrom_eq_foldl_crcBit (c : Byte) (data : List Byte) :
    crcFrom c data = (inputBits data).foldl crcBit c := by
  induction data generalizing c with
  | nil => rfl
  | cons x xs ih => rw [crcFrom, inputBits_cons, List.foldl_append, ← crcByte_eq_foldl_crcBit, ih]

/-- Settles O16: from the start value 0 both sides are the fold of the bit step over the input bits. -/
theorem crc8IsTheBitSerialAlgorithm : Obligations.Crc8IsTheBitSerialAlgorithm := by
  intro data
  rw [crc8, crcFrom_eq_foldl_crcBit, crcOfBits_eq_foldl_crcBit]

end Sys2Proof.Proofs

/-! The Bus Transport's single slots and bytes (41_transport.md R132 to R136): each operation's outcome in closed form,
from what its statement sequence leaves. -/

namespace Sys2Proof.Proofs

open Sys2Proof Sys2Proof.Machine Sys2Proof.Claims

/-! ### How an operation's sequence ends -/

theorem runOp_of_go {k : List Stmt} {s s' : State} (h : runSeq k s = (.go, s')) : runOp k s = s'.complete .ok 0 := by
  rw [runOp, h]; rfl

theorem runOp_of_fail {k : List Stmt} {s s' : State} {c : ResultCode} (h : runSeq k s = (.fail c, s')) :
    runOp k s = s'.fail c := by
  rw [runOp, h]; rfl

theorem runOp_append_ret {k : List Stmt} {s s' : State} (h : runSeq k s = (.go, s')) (v : RetVal) :
    runOp (k ++ [.ret v]) s = s'.complete .ok (v.value s') := by
  rw [runOp, runSeq_append_go h]; rfl

/-! ### What each operation leaves -/

theorem exec_writeByte (x : Byte) (s : State) : exec (.writeByte x) s = .next ((s.wrote x).complete .ok 0) :=
  congrArg Host.Outcome.next (runOp_of_go (runSeq_writeByteSeq x s))

theorem exec_readByte (s : State) : exec .readByte s = .next (s.received.complete .ok (wordOfByte (s.byteAt 0))) :=
  congrArg Host.Outcome.next (runOp_append_ret (runSeq_readByteSeq s) .shift)

theorem exec_writeBit_of_legal {v : Byte} (h : legalBit v = true) (s : State) :
    exec (.writeBit v) s = .next ((s.writeBit (v.getLsbD 0)).complete .ok 0) := by
  have hrun : runSeq (seqWriteBit v) s = (.go, s.writeBit (v.getLsbD 0)) := by
    rw [seqWriteBit, h, runSeq_param_true]; rfl
  exact congrArg Host.Outcome.next (runOp_of_go hrun)

theorem exec_writeBit_of_illegal {v : Byte} (h : legalBit v = false) (s : State) :
    exec (.writeBit v) s = .next (badParam s) := by
  have hrun : runSeq (seqWriteBit v) s = (.fail .badParam, s) := by rw [seqWriteBit, h, runSeq_param_false]
  exact congrArg Host.Outcome.next (runOp_of_fail hrun)

/-- The byte with the sampled bit at index 0, as RVAL holds it (41_transport.md R134). -/
theorem wordOfByte_setBit_bitOfLevel (l : Level) :
    wordOfByte (setBit 0 0 (bitOfLevel l)) = if l = .high then 1 else 0 := by
  cases l <;> decide

/-- The byte in SHIFT before the one bit of `read_bit` is 0, so SHIFT after it is that bit. -/
theorem exec_readBit (s : State) :
    exec .readBit s = .next (State.complete (State.recvBit { s with shift := 0, bitcnt := 0 }) .ok
      (if s.level 0 = .high then 1 else 0)) := by
  rw [← wordOfByte_setBit_bitOfLevel]; rfl

/-! ### The statements -/

/-- Settles O24: `WriteByte` in closed form, then the completion. -/
theorem writeByteResult : Obligations.WriteByteResult := by
  intro x s
  refine ⟨?_, (s.wrote x).complete .ok 0, exec_writeByte x s, rfl⟩
  simp [encode, toNat_commandWord]

/-- Settles O25: the byte is `byteAt 0`, the one SHIFT holds after eight read slots. -/
theorem readByteResult : Obligations.ReadByteResult := by
  refine ⟨by decide, fun s => ⟨_, s.byteAt 0, exec_readByte s, ?_, fun i hi => ?_⟩⟩
  · simp [completed, State.complete, State.received, State.readEvents, wordOfByte]
  · simpa using s.byteAt_bit 0 hi

/-- Settles O22: legal values are exactly 0 and 1, and each is its own bit 0. -/
theorem writeBitResult : Obligations.WriteBitResult := by
  intro v s
  refine ⟨by simp [encode, toNat_commandWord], ?one, ?zero, ?illegal⟩
  case one =>
    rintro rfl
    rw [exec_writeBit_of_legal (by decide), State.writeBit_eq]; rfl
  case zero =>
    rintro rfl
    rw [exec_writeBit_of_legal (by decide), State.writeBit_eq]; rfl
  case illegal =>
    intro hv
    exact exec_writeBit_of_illegal (decide_eq_false (Nat.not_le.mpr hv)) s

/-- Settles O23: one read slot, whose bit RVAL receives. -/
theorem readBitResult : Obligations.ReadBitResult := by
  refine ⟨by decide, fun s => ⟨_, exec_readBit s, ?_⟩⟩
  simp only [State.recvBit, State.readBit_eq]; rfl

end Sys2Proof.Proofs

/-! The start operations and the page read (42_transactions.md R154 to R156): how a frame that begins with `Reset()` ends,
for each answer of the line. -/

namespace Sys2Proof.Proofs

open Sys2Proof Sys2Proof.Machine Sys2Proof.Claims

/-! ### Resets that sample high -/

/-- The abort at an operation's first slot. -/
theorem fail_resetSlot_of_high {s : State} (h : s.level 0 = .high) : s.resetSlot.fail .deviceNotFound = absent s := by
  rw [State.resetSlot_eq, h]; rfl

/-- The abort at the reset after one page frame: the frame's last byte is what the working registers hold. -/
theorem fail_framed_resetSlot {s : State} (h : s.level 0 = .low) (h' : s.level 1 = .high) (command page : Byte) :
    (s.framed command page).resetSlot.fail .deviceNotFound =
      { completed s (s.framed command page) .deviceNotFound 0 (pageEvents command page ++ [.rst .high]) 2 with
        presence := false } := by
  have hreset : (s.framed command page).level 0 = .high := by rw [State.framed_level]; exact h'
  rw [State.resetSlot_eq, hreset, State.framed_eq h]
  simp [State.fail, State.complete, completed, presenceOf]

/-! ### An operation that begins with `PageRead(p)` -/

theorem runOp_pageRead_of_illegal {p : Byte} (hp : 7 < p.toNat) (k : List Stmt) (s : State) :
    runOp (pageRead p ++ k) s = badParam s := by
  have hrun : runSeq (pageRead p ++ k) s = (.fail .badParam, s) := by
    have hillegal : legalPage p = false := decide_eq_false (Nat.not_le.mpr hp)
    rw [runSeq_pageRead, if_pos hillegal]
  exact runOp_of_fail hrun

section LegalPage

variable {p : Byte} (hp : p.toNat ≤ 7)
include hp

/-- `PageRead(p)` from its first reset on. -/
theorem runSeq_pageRead_of_legal (k : List Stmt) (s : State) :
    runSeq (pageRead p ++ k) s =
      if s.level 0 ≠ .low then (.fail .deviceNotFound, s.resetSlot)
      else if s.level 1 ≠ .low then (.fail .deviceNotFound, (s.framed 0xB8 p).resetSlot)
      else runSeq k (s.pageWasRead p) := by
  have hlegal : legalPage p = true := decide_eq_true hp
  rw [runSeq_pageRead, if_neg (by simp [hlegal])]

theorem runOp_pageRead_first_high {s : State} (h : s.level 0 = .high) (k : List Stmt) :
    runOp (pageRead p ++ k) s = absent s := by
  have hrun : runSeq (pageRead p ++ k) s = (.fail .deviceNotFound, s.resetSlot) := by
    rw [runSeq_pageRead_of_legal hp, if_pos (by simp [h])]
  rw [runOp_of_fail hrun, fail_resetSlot_of_high h]

theorem runOp_pageRead_second_high {s : State} (h : s.level 0 = .low) (h' : s.level 1 = .high) (k : List Stmt) :
    runOp (pageRead p ++ k) s =
      { completed s (s.framed 0xB8 p) .deviceNotFound 0 (pageEvents 0xB8 p ++ [.rst .high]) 2 with
        presence := false } := by
  have hrun : runSeq (pageRead p ++ k) s = (.fail .deviceNotFound, (s.framed 0xB8 p).resetSlot) := by
    rw [runSeq_pageRead_of_legal hp, if_neg (by simp [h]), if_pos (by simp [h'])]
  rw [runOp_of_fail hrun, fail_framed_resetSlot h h']

theorem runSeq_pageRead_of_resetsLow {s : State} (h : resetsLow s 0) (k : List Stmt) :
    runSeq (pageRead p ++ k) s = runSeq k (s.pageWasRead p) := by
  obtain ⟨hfirst, hsecond⟩ := h
  rw [runSeq_pageRead_of_legal hp, if_neg (by simp [hfirst]), if_neg (by simpa using hsecond)]

/-- Both aborts of any operation whose statements begin with the read of a legal page. -/
theorem abortsInPageRead_of_exec {i : Instr} {k : List Stmt} {s : State}
    (hexec : exec i s = .next (runOp (pageRead p ++ k) s)) : abortsInPageRead i p s := by
  have hnext {t : State} (ht : runOp (pageRead p ++ k) s = t) : exec i s = .next t := by rw [hexec, ht]
  exact ⟨fun h => hnext (runOp_pageRead_first_high hp h k),
    fun h h' => ⟨_, hnext (runOp_pageRead_second_high hp h h' k), by simp only [completed]⟩⟩

end LegalPage

/-! ### What each operation leaves -/

/-- `read_page` is `PageRead(p)` with nothing after it. -/
theorem exec_readPage (p : Byte) (s : State) : exec (.readPage p) s = .next (runOp (pageRead p ++ []) s) := by
  rw [List.append_nil]; rfl

theorem exec_readPage_of_resetsLow {p : Byte} (hp : p.toNat ≤ 7) {s : State} (h : resetsLow s 0) :
    exec (.readPage p) s = .next ((s.pageWasRead p).complete .ok 0) := by
  rw [exec_readPage, runOp_of_go (runSeq_pageRead_of_resetsLow hp h [])]

theorem exec_conversion (q : Poll) (s : State) :
    exec (conversion q) s = .next (runOp (startConversion q ++ []) s) := by
  cases q <;> rw [List.append_nil] <;> rfl

theorem exec_conversion_high (q : Poll) {s : State} (h : s.level 0 = .high) :
    exec (conversion q) s = .next (absent s) := by
  have hrun : runSeq (startConversion q ++ []) s = (.fail .deviceNotFound, s.resetSlot) := by
    rw [runSeq_startConversion, if_neg (by simp [h])]
  rw [exec_conversion, runOp_of_fail hrun, fail_resetSlot_of_high h]

theorem exec_conversion_low (q : Poll) {s : State} (h : s.level 0 = .low) :
    exec (conversion q) s = .next ((s.commanded q.command).complete .ok 0) := by
  have hrun : runSeq (startConversion q ++ []) s = (.go, s.commanded q.command) := by
    rw [runSeq_startConversion, if_pos h]; rfl
  rw [exec_conversion, runOp_of_go hrun]

/-- The model's wire command is the one the statements name (30_encoding.md R97). -/
theorem command_eq_wireCommand (q : Poll) : q.command = wireCommand q := by cases q <;> rfl

theorem encode_conversion (q : Poll) : encode (conversion q) = conversionOp q := by cases q <;> decide

/-! ### The statements -/

/-- Settles O31: every answer of the line to the two resets, and the page number checked before either. -/
theorem readPageResult : Obligations.ReadPageResult := by
  intro p s
  refine ⟨by simp [encode, toNat_commandWord], fun hp => ?illegal,
    fun hp => ⟨abortsInPageRead_of_exec hp (exec_readPage p s), fun h => ⟨_, exec_readPage_of_resetsLow hp h, ?read⟩⟩⟩
  case illegal => rw [exec_readPage, runOp_pageRead_of_illegal hp]
  case read => rw [State.pageWasRead_eq h.1 h.2]; rfl

/-- Settles O30: one function frame, which presence at its reset lets through. -/
theorem startConversionResult : Obligations.StartConversionResult := by
  refine fun q s => ⟨encode_conversion q, exec_conversion_high q, fun h => ⟨_, exec_conversion_low q h, ?_⟩⟩
  rw [State.commanded_eq h, command_eq_wireCommand]; rfl

end Sys2Proof.Proofs

/-! The command word (30_encoding.md R90 to R96, R100): the decoder answers an operation exactly for the words that the
encoder writes, and the rows of the opcode table are told apart by their operation codes. -/

namespace Sys2Proof.Proofs

open Sys2Proof Sys2Proof.Machine Sys2Proof.Claims

/-! ### The two directions of the round trip -/

/-- Settles O11: one round trip per constructor. -/
theorem decodeOfEncodeIsIdentity : Obligations.DecodeOfEncodeIsIdentity := by
  intro i
  cases i with
  | crc8Compute n => exact Laws.RoundTrip.crc8Compute n
  | crc8Check e n => exact Laws.RoundTrip.crc8Check e n
  | reset => exact Laws.RoundTrip.reset
  | writeBit v => exact Laws.RoundTrip.writeBit v
  | readBit => exact Laws.RoundTrip.readBit
  | writeByte x => exact Laws.RoundTrip.writeByte x
  | readByte => exact Laws.RoundTrip.readByte
  | touchByte x => exact Laws.RoundTrip.touchByte x
  | touchBlock n => exact Laws.RoundTrip.touchBlock n
  | devicePresent => exact Laws.RoundTrip.devicePresent
  | readRom c => exact Laws.RoundTrip.readRom c
  | readSerialNumber c => exact Laws.RoundTrip.readSerialNumber c
  | startVoltageConversion => exact Laws.RoundTrip.startVoltageConversion
  | startTemperatureConversion => exact Laws.RoundTrip.startTemperatureConversion
  | readPage p => exact Laws.RoundTrip.readPage p
  | writePage p => exact Laws.RoundTrip.writePage p
  | hasVoltageData c => exact Laws.RoundTrip.hasVoltageData c
  | hasTemperatureData c => exact Laws.RoundTrip.hasTemperatureData c
  | readVoltage c => exact Laws.RoundTrip.readVoltage c
  | readTemperature c => exact Laws.RoundTrip.readTemperature c
  | copyInProgress => exact Laws.RoundTrip.copyInProgress
  | readThreshold c => exact Laws.RoundTrip.readThreshold c
  | getIca c => exact Laws.RoundTrip.getIca c
  | getCapacity c => exact Laws.RoundTrip.getCapacity c
  | selectInputSource v c => exact Laws.RoundTrip.selectInputSource v c
  | enableIad => exact Laws.RoundTrip.enableIad
  | disableIad => exact Laws.RoundTrip.disableIad
  | enableCa => exact Laws.RoundTrip.enableCa
  | disableCa => exact Laws.RoundTrip.disableCa
  | enableShadowEe => exact Laws.RoundTrip.enableShadowEe
  | disableShadowEe => exact Laws.RoundTrip.disableShadowEe
  | writeThreshold v => exact Laws.RoundTrip.writeThreshold v
  | decodeTemperature => exact Laws.RoundTrip.decodeTemperature
  | decodeVoltage => exact Laws.RoundTrip.decodeVoltage
  | decodeCurrent => exact Laws.RoundTrip.decodeCurrent
  | decodeCapacity => exact Laws.RoundTrip.decodeCapacity

/-- A word whose reserved bits are 0 is made of its four fields (R90). -/
theorem commandWord_fields {w : Word} (h : reservedField w = 0) :
    commandWord (opField w) (argField w) (crcField w) (lenField w) = w := by
  have hbit (i : Nat) (hr : (0xFF0E0000#32).getLsbD i = true) : w.getLsbD i = false := by
    have := congrArg (fun v : Word => v.getLsbD i) h
    simpa [-BitVec.getLsbD_eq_getElem, reservedField, BitVec.getLsbD_and, hr] using this
  apply BitVec.eq_of_getLsbD_eq
  intro i hi
  interval_cases i <;>
    simp [-BitVec.getLsbD_eq_getElem, commandWord, opField, argField, crcField, lenField, hbit]

/-! ### What each kind of row accepts and refuses -/

theorem unusedFieldsZero_ok_iff {usesArg usesCrc usesLen : Bool} {w : Word} {i j : Instr} :
    unusedFieldsZero usesArg usesCrc usesLen w i = .ok j ↔
      i = j ∧ (usesArg = false → argField w = 0) ∧ (usesCrc = false → crcField w = false) ∧
        (usesLen = false → lenField w = 0) := by
  unfold unusedFieldsZero
  split_ifs with ha hc hl
  · exact ⟨nofun, fun h => absurd (h.2.1 ha.1) ha.2⟩
  · exact ⟨nofun, fun h => by simp [h.2.2.1 hc.1] at hc⟩
  · exact ⟨nofun, fun h => absurd (h.2.2.2 hl.1) hl.2⟩
  · simp only [not_and, ne_eq, not_not, Bool.not_eq_true] at ha hc hl
    exact ⟨fun h => ⟨Except.ok.inj h, ha, hc, hl⟩, fun h => congrArg _ h.1⟩

theorem unusedFieldsZero_error_iff {usesArg usesCrc usesLen : Bool} {w : Word} {i : Instr} :
    (∃ e, unusedFieldsZero usesArg usesCrc usesLen w i = .error e) ↔
      (usesArg = false ∧ argField w ≠ 0) ∨ (usesCrc = false ∧ crcField w = true) ∨
        (usesLen = false ∧ lenField w ≠ 0) := by
  unfold unusedFieldsZero
  split_ifs with ha hc hl
  · exact ⟨fun _ => .inl ha, fun _ => ⟨_, rfl⟩⟩
  · exact ⟨fun _ => .inr (.inl hc), fun _ => ⟨_, rfl⟩⟩
  · exact ⟨fun _ => .inr (.inr hl), fun _ => ⟨_, rfl⟩⟩
  · exact ⟨nofun, fun h => (h.elim ha fun h => h.elim hc hl).elim⟩

theorem decodeLen_ok_iff {usesArg : Bool} {w : Word} {i j : Instr} :
    decodeLen usesArg w i = .ok j ↔ legalLen (lenField w) = true ∧ unusedFieldsZero usesArg false true w i = .ok j := by
  unfold decodeLen; split <;> simp [*]

theorem decodeLen_error_iff {usesArg : Bool} {w : Word} {i : Instr} :
    (∃ e, decodeLen usesArg w i = .error e) ↔
      (∃ e, unusedFieldsZero usesArg false true w i = .error e) ∨ legalLen (lenField w) = false := by
  unfold decodeLen; split <;> simp [*]

theorem decodeBit_ok_iff {w : Word} {i j : Instr} :
    decodeBit w i = .ok j ↔ legalBit (argField w) = true ∧ decodeArg w i = .ok j := by
  unfold decodeBit; split <;> simp [*]

theorem decodeBit_error_iff {w : Word} {i : Instr} :
    (∃ e, decodeBit w i = .error e) ↔ (∃ e, decodeArg w i = .error e) ∨ legalBit (argField w) = false := by
  unfold decodeBit; split <;> simp [*]

theorem decode_ok_iff {w : Word} {i : Instr} : decode w = .ok i ↔ reservedField w = 0 ∧ decodeOp w = .ok i := by
  unfold decode
  split
  · exact ⟨nofun, fun h => absurd h.1 ‹_›⟩
  · exact ⟨fun h => ⟨not_not.mp ‹_›, h⟩, And.right⟩

theorem decode_error_iff {w : Word} : (∃ e, decode w = .error e) ↔ reservedField w ≠ 0 ∨ ∃ e, decodeOp w = .error e := by
  unfold decode
  split
  · exact ⟨fun _ => .inl ‹_›, fun _ => ⟨_, rfl⟩⟩
  · exact ⟨.inr, fun h => h.resolve_left ‹_›⟩

/-- The word selects the row of the table that has its code and these used fields, the fields that the row does not use
are 0 in it, and the operation encodes to the code and the used fields. -/
structure AcceptedBy (w : Word) (i : Instr) (op : Byte) (usesArg usesCrc usesLen : Bool) : Prop where
  code : opField w = op
  row : (op.zeroExtend 32, rowMask usesArg usesCrc usesLen) ∈ opcodeRows
  encodes : encode i =
    commandWord op (if usesArg then argField w else 0) (usesCrc && crcField w) (if usesLen then lenField w else 0)
  arg : usesArg = false → argField w = 0
  crc : usesCrc = false → crcField w = false
  len : usesLen = false → lenField w = 0

theorem acceptedBy_of_row {usesArg usesCrc usesLen : Bool} {w : Word} {i j : Instr} {op : Nat}
    (hop : (opField w).toNat = op) (h : unusedFieldsZero usesArg usesCrc usesLen w j = .ok i)
    (hrow : ((BitVec.ofNat 8 op).zeroExtend 32, rowMask usesArg usesCrc usesLen) ∈ opcodeRows)
    (hj : encode j = commandWord (BitVec.ofNat 8 op) (if usesArg then argField w else 0) (usesCrc && crcField w)
      (if usesLen then lenField w else 0)) :
    ∃ op usesArg usesCrc usesLen, AcceptedBy w i op usesArg usesCrc usesLen := by
  obtain ⟨rfl, harg, hcrc, hlen⟩ := unusedFieldsZero_ok_iff.mp h
  have hcode : opField w = BitVec.ofNat 8 op := by rw [← hop, BitVec.ofNat_toNat, BitVec.setWidth_eq]
  exact ⟨_, _, _, _, hcode, hrow, hj, harg, hcrc, hlen⟩

/-- Every word that decodes is accepted by a row of the table. -/
theorem acceptedBy_of_decodeOp {w : Word} {i : Instr} (h : decodeOp w = .ok i) :
    ∃ op usesArg usesCrc usesLen, AcceptedBy w i op usesArg usesCrc usesLen := by
  unfold decodeOp at h
  split at h
  case h_1 hop => exact acceptedBy_of_row hop (decodeLen_ok_iff.mp h).2 (by decide) rfl
  case h_2 hop => exact acceptedBy_of_row hop (decodeLen_ok_iff.mp h).2 (by decide) rfl
  case h_4 hop => exact acceptedBy_of_row hop (decodeBit_ok_iff.mp h).2 (by decide) rfl
  case h_9 hop => exact acceptedBy_of_row hop (decodeLen_ok_iff.mp h).2 (by decide) rfl
  case h_37 => cases h
  all_goals exact acceptedBy_of_row ‹_› h (by decide) rfl

theorem AcceptedBy.encode_eq {w : Word} {i : Instr} {op : Byte} {usesArg usesCrc usesLen : Bool}
    (h : AcceptedBy w i op usesArg usesCrc usesLen) :
    encode i = commandWord (opField w) (argField w) (crcField w) (lenField w) := by
  rw [h.encodes, h.code]
  congr 1
  · cases usesArg <;> simp [h.arg]
  · cases usesCrc <;> simp [h.crc]
  · cases usesLen <;> simp [h.len]

/-- Settles O12: the row that accepts a word gives back its four fields, and the reserved bits are 0. -/
theorem encodeOfDecodeIsIdentity : Obligations.EncodeOfDecodeIsIdentity := by
  intro w i h
  obtain ⟨hreserved, hop⟩ := decode_ok_iff.mp h
  obtain ⟨_, _, _, _, haccepted⟩ := acceptedBy_of_decodeOp hop
  rw [haccepted.encode_eq, commandWord_fields hreserved]

/-! ### Reserved words (R100) -/

theorem extractLsb'_eq_zero_iff {n : Nat} (w : Word) (k : Nat) :
    w.extractLsb' k n = 0 ↔ ∀ i < n, w.getLsbD (k + i) = false := by
  constructor
  · intro h i hi
    have hbit := congrArg (fun v => BitVec.getLsbD v i) h
    simpa [-BitVec.getLsbD_eq_getElem, hi] using hbit
  · intro h
    apply BitVec.eq_of_getLsbD_eq
    intro i hi
    simp [-BitVec.getLsbD_eq_getElem, hi, h i hi]

/-- Bits 19:17 and 31:24 (R90). -/
theorem reservedField_eq_zero_iff (w : Word) :
    reservedField w = 0 ↔ w.extractLsb' 17 3 = 0 ∧ w.extractLsb' 24 8 = 0 := by
  have hmask : ∀ i < 32, (0xFF0E0000#32).getLsbD i = (decide (17 ≤ i ∧ i < 20) || decide (24 ≤ i)) := by decide
  rw [extractLsb'_eq_zero_iff, extractLsb'_eq_zero_iff]
  constructor
  · intro h
    have hbit (i : Nat) (hi : i < 32) (hr : 17 ≤ i ∧ i < 20 ∨ 24 ≤ i) : w.getLsbD i = false := by
      have hand := congrArg (fun v : Word => v.getLsbD i) h
      have hm : (0xFF0E0000#32).getLsbD i = true := by rw [hmask i hi]; simpa using hr
      simpa [-BitVec.getLsbD_eq_getElem, reservedField, hm] using hand
    exact ⟨fun i hi => hbit _ (by omega) (by omega), fun i hi => hbit _ (by omega) (by omega)⟩
  · rintro ⟨hlow, hhigh⟩
    apply BitVec.eq_of_getLsbD_eq
    intro i hi
    rw [reservedField, BitVec.getLsbD_and, hmask i hi]
    by_cases hr : 17 ≤ i ∧ i < 20
    · have hbit := hlow (i - 17) (by omega)
      rw [Nat.add_sub_cancel' hr.1] at hbit
      rw [hbit]; simp
    · by_cases hr' : 24 ≤ i
      · have hbit := hhigh (i - 24) (by omega)
        rw [Nat.add_sub_cancel' hr'] at hbit
        rw [hbit]; simp
      · simp [hr, hr']

/-- The words that their row refuses, or that select no row. -/
theorem decodeOp_error_iff (w : Word) :
    let op := (opField w).toNat
    let usesLen := [0x01, 0x02, 0x16].contains op
    let usesArg := [0x02, 0x11, 0x13, 0x15, 0x25, 0x26, 0x30, 0x37].contains op
    let usesCrc := [0x21, 0x22, 0x27, 0x28, 0x29, 0x2A, 0x2C, 0x2D, 0x2E, 0x30].contains op
    (∃ e, decodeOp w = .error e) ↔
      (¬(op ∈ [0x01, 0x02] ∨ (0x10 ≤ op ∧ op ≤ 0x16) ∨ (0x20 ≤ op ∧ op ≤ 0x2E) ∨ (0x30 ≤ op ∧ op ≤ 0x37) ∨
        (0x40 ≤ op ∧ op ≤ 0x43))) ∨
      (usesArg = false ∧ argField w ≠ 0) ∨ (usesCrc = false ∧ crcField w = true) ∨
      (usesLen = false ∧ lenField w ≠ 0) ∨
      (usesLen = true ∧ 9 < (lenField w).toNat) ∨ (op = 0x11 ∧ 1 < (argField w).toNat) := by
  intro op usesLen usesArg usesCrc
  unfold decodeOp
  split
  case h_37 =>
    refine ⟨fun _ => .inl ?_, fun _ => ⟨_, rfl⟩⟩
    simp only [List.mem_cons, List.not_mem_nil, or_false, imp_false, op] at *
    omega
  all_goals
    have hop : op = _ := ‹_›
    simp [usesLen, usesArg, usesCrc, hop, decodeLen_error_iff, decodeBit_error_iff, decodePlain, decodeArg, decodeCrc,
      decodeArgCrc, unusedFieldsZero_error_iff, legalLen, legalBit, or_assoc]

/-- Settles O10: the reserved bits, or the row's own conditions. -/
theorem reservedWordsAreThoseOfTheRule : Obligations.ReservedWordsAreThoseOfTheRule := by
  intro w
  have hreserved : reservedField w ≠ 0 ↔ w.extractLsb' 17 3 ≠ 0 ∨ w.extractLsb' 24 8 ≠ 0 := by
    rw [ne_eq, reservedField_eq_zero_iff, not_and_or]
  exact (decode_error_iff.trans (or_congr hreserved (decodeOp_error_iff w))).trans
    (or_left_comm.trans (or_congr_right or_assoc))

/-! ### The opcode map (R94, R95) -/

theorem opcodeRows_low_byte {row : Word × Word} (h : row ∈ opcodeRows) :
    row.1 &&& 0xFF#32 = row.1 ∧ row.2 &&& 0xFF#32 = 0xFF#32 := by
  have hall : opcodeRows.all (fun row => row.1 &&& 0xFF#32 == row.1 && row.2 &&& 0xFF#32 == 0xFF#32) = true := by decide
  simpa using List.all_eq_true.mp hall row h

theorem opcodeRows_codes_nodup : (opcodeRows.map Prod.fst).Nodup := by decide

/-- A row's match is the low byte of every word that selects it. -/
theorem low_byte_of_rowSelects {row : Word × Word} (hrow : row ∈ opcodeRows) {w : Word} (h : rowSelects row w = true) :
    w &&& 0xFF#32 = row.1 := by
  obtain ⟨hcode, hmask⟩ := opcodeRows_low_byte hrow
  have hselects : w &&& row.2 = row.1 := of_decide_eq_true h
  calc w &&& 0xFF#32 = w &&& row.2 &&& 0xFF#32 := by rw [BitVec.and_assoc, hmask]
    _ = row.1 := by rw [hselects, hcode]

theorem rowMask_bit : ∀ (usesArg usesCrc usesLen : Bool), ∀ i < 32, (rowMask usesArg usesCrc usesLen).getLsbD i =
    (!(usesArg && decide (8 ≤ i ∧ i < 16)) && !(usesCrc && decide (i = 16)) &&
      !(usesLen && decide (20 ≤ i ∧ i < 24))) := by
  decide

theorem commandWord_bit (op arg : Byte) (crc : Bool) (len : BitVec 4) {i : Nat} (hi : i < 32) :
    (commandWord op arg crc len).getLsbD i =
      (op.getLsbD i || (decide (8 ≤ i) && arg.getLsbD (i - 8)) || (decide (i = 16) && crc) ||
        (decide (20 ≤ i) && len.getLsbD (i - 20))) := by
  interval_cases i <;> simp [-BitVec.getLsbD_eq_getElem, commandWord]

/-- A field that its row uses is masked where it stands, and one that the row does not use is 0. -/
theorem masked_field {n k : Nat} (x : BitVec n) (used : Bool) (i : Nat) :
    (decide (k ≤ i) && (if used then x else 0).getLsbD (i - k) && !(used && decide (k ≤ i ∧ i < k + n))) = false := by
  cases used
  · simp
  · by_cases hi : i < k + n
    · by_cases hk : k ≤ i <;> simp [hi, hk]
    · have hx : x.getLsbD (i - k) = false := BitVec.getLsbD_of_ge _ _ (by omega)
      simp [hx]

/-- A command word with the fields that its row does not use at 0 selects that row. -/
theorem rowSelects_commandWord (op arg : Byte) (crc : Bool) (len : BitVec 4) (usesArg usesCrc usesLen : Bool) :
    rowSelects (op.zeroExtend 32, rowMask usesArg usesCrc usesLen)
      (commandWord op (if usesArg then arg else 0) (usesCrc && crc) (if usesLen then len else 0)) = true := by
  apply decide_eq_true
  apply BitVec.eq_of_getLsbD_eq
  intro i hi
  rw [BitVec.getLsbD_and, commandWord_bit _ _ _ _ hi, rowMask_bit _ _ _ i hi]
  have hop : 8 ≤ i → op.getLsbD i = false := BitVec.getLsbD_of_ge op i
  have harg := masked_field (k := 8) arg usesArg i
  have hlen := masked_field (k := 20) len usesLen i
  simp only [BitVec.truncate_eq_setWidth, BitVec.getLsbD_setWidth, hi, decide_true, Bool.true_and]
  grind

theorem AcceptedBy.rowSelects {w : Word} {i : Instr} {op : Byte} {usesArg usesCrc usesLen : Bool}
    (h : AcceptedBy w i op usesArg usesCrc usesLen) :
    rowSelects (op.zeroExtend 32, rowMask usesArg usesCrc usesLen) (encode i) = true := by
  rw [h.encodes]; exact rowSelects_commandWord _ _ _ _ _ _ _

/-- Every word that decodes is selected by the row with its operation's code. -/
theorem exists_row_of_decode {w : Word} {i : Instr} (h : decode w = .ok i) :
    ∃ row ∈ opcodeRows, rowSelects row w = true ∧ row.1 = (opField (encode i)).zeroExtend 32 := by
  obtain ⟨_, _, _, _, haccepted⟩ := acceptedBy_of_decodeOp (decode_ok_iff.mp h).2
  refine ⟨_, haccepted.row, ?_, ?_⟩
  · rw [← encodeOfDecodeIsIdentity w i h]; exact haccepted.rowSelects
  · rw [haccepted.encodes, opField_commandWord]

/-- Settles O13: the low byte of a word is the match of any row it selects, and no two rows have the same match. -/
theorem exactlyOneRowSelectsADecodedWord : Obligations.ExactlyOneRowSelectsADecodedWord := by
  refine ⟨fun w a ha b hb hsa hsb => ?unique, fun w i h => exists_row_of_decode h, fun w hnone => ?refused⟩
  case unique =>
    have hcode : a.1 = b.1 := by rw [← low_byte_of_rowSelects ha hsa, low_byte_of_rowSelects hb hsb]
    exact List.inj_on_of_nodup_map opcodeRows_codes_nodup ha hb hcode
  case refused =>
    cases hw : decode w with
    | error e => exact ⟨e, rfl⟩
    | ok i =>
      obtain ⟨row, hrow, hselects, -⟩ := exists_row_of_decode hw
      rw [hnone row hrow] at hselects
      cases hselects

/-- Settles O7: each word is decoded by evaluation. -/
theorem specWordsDecodeAsListed : Obligations.SpecWordsDecodeAsListed := by
  unfold Obligations.SpecWordsDecodeAsListed; decide

end Sys2Proof.Proofs

/-! Running an operation whole and running it tick by tick (10_state.md R30): `exec` and `runOn` are reached by some number
of ticks, so whatever every tick keeps, every step and every position keeps. -/

namespace Sys2Proof.Proofs

open Sys2Proof Sys2Proof.Machine Sys2Proof.Claims

theorem exec_eq_runOp (i : Instr) (s : State) : exec i s = .next (runOp (sequenceOf i) s) := by
  cases i <;> rfl

/-! ### SEQ plays no part in what a whole run leaves -/

theorem settle_seq (f : Flow) (q : Seq) (s : State) : settle (f, { s with seq := q }) = settle (f, s) := by
  cases f <;> rfl

theorem pollAgain_seq (q' : Seq) (s : State) (q : Poll) (c : Bool) :
    State.pollAgain { s with seq := q' } q c = s.pollAgain q c := by
  rfl

theorem settle_runSeq_seq (k : List Stmt) (q : Seq) (s : State) :
    settle (runSeq k { s with seq := q }) = settle (runSeq k s) := by
  rw [runSeq_seq, settle_seq]

theorem pollOnce_seq (q : Poll) (c : Bool) (k : List Stmt) (q' : Seq) (s : State) :
    pollOnce q c k { s with seq := q' } = pollOnce q c k s := by
  unfold pollOnce
  rw [runSeq_seq]
  rcases runSeq k s with ⟨f, t⟩
  cases f with
  | go => exact settle_runSeq_seq _ q' { t with pollcnt := t.pollcnt + 1 }
  | _ => exact pollAgain_seq q' t q c

theorem runOp_seq (k : List Stmt) (q' : Seq) (s : State) : runOp k { s with seq := q' } = runOp k s := by
  unfold runOp
  rw [runSeq_seq]
  rcases runSeq k s with ⟨f, t⟩
  cases f with
  | branch k' => exact settle_runSeq_seq k' q' t
  | poll q c => exact pollOnce_seq q c _ q' t
  | _ => rfl

/-! ### One tick, by where the sequencer stands -/

theorem tick_idle {s : State} (h : s.seq = .idle) : s.tick = s := by simp [State.tick, h]

theorem tick_issued {s : State} {i : Instr} (h : s.seq = .issued) (hi : decode s.cmd = .ok i) :
    s.tick = { s with seq := .running (sequenceOf i) } := by simp [State.tick, h, hi]

theorem tick_reserved {s : State} {e : DecodeError} (h : s.seq = .issued) (he : decode s.cmd = .error e) :
    s.tick = s.fail .badParam := by simp [State.tick, h, he]

theorem tick_running_nil {s : State} (h : s.seq = .running []) : s.tick = s.complete .ok 0 := by
  simp [State.tick, h, settle]

theorem tick_running_go {s s' : State} {m : Stmt} {ms : List Stmt} (h : s.seq = .running (m :: ms))
    (hm : doStmt m s = (.go, s')) : s.tick = { s' with seq := .running ms } := by simp [State.tick, h, hm]

/-- A statement that does not simply go on ends the sequence as `settle` says. -/
theorem tick_running_stop {s s' : State} {m : Stmt} {ms : List Stmt} {f : Flow} (h : s.seq = .running (m :: ms))
    (hm : doStmt m s = (f, s')) (hf : f ≠ .go) : s.tick = settle (f, s') := by
  cases f <;> simp_all [State.tick]

theorem tick_polling_nil {s : State} {q : Poll} {c : Bool} (h : s.seq = .polling q c []) :
    s.tick = { s with pollcnt := s.pollcnt + 1, seq := .running (finalRead q c) } := by simp [State.tick, h]

theorem tick_polling_go {s s' : State} {q : Poll} {c : Bool} {m : Stmt} {ms : List Stmt}
    (h : s.seq = .polling q c (m :: ms)) (hm : doStmt m s = (.go, s')) : s.tick = { s' with seq := .polling q c ms } := by
  simp [State.tick, h, hm]

theorem tick_polling_stop {s s' : State} {q : Poll} {c : Bool} {m : Stmt} {ms : List Stmt} {f : Flow}
    (h : s.seq = .polling q c (m :: ms)) (hm : doStmt m s = (f, s')) (hf : f ≠ .go) : s.tick = s'.pollAgain q c := by
  cases f <;> simp_all [State.tick]

theorem runSeq_cons_go {s s' : State} {m : Stmt} (ms : List Stmt) (hm : doStmt m s = (.go, s')) :
    runSeq (m :: ms) s = runSeq ms s' := by simp [runSeq, hm]

theorem runSeq_cons_stop {s s' : State} {m : Stmt} (ms : List Stmt) {f : Flow} (hm : doStmt m s = (f, s'))
    (hf : f ≠ .go) : runSeq (m :: ms) s = (f, s') := by
  cases f <;> simp_all [runSeq]

/-! ### Some number of ticks -/

theorem ticks_add (m n : Nat) (s : State) : State.ticks (m + n) s = State.ticks n (State.ticks m s) := by
  induction m generalizing s with
  | zero => simp [State.ticks]
  | succ m ih => rw [Nat.add_right_comm]; exact ih s.tick

/-- Some number of ticks leads from one state to the other. -/
def TicksTo (s t : State) : Prop := ∃ n, State.ticks n s = t

theorem TicksTo.refl (s : State) : TicksTo s s := ⟨0, rfl⟩

theorem TicksTo.tick (s : State) : TicksTo s s.tick := ⟨1, rfl⟩

theorem TicksTo.trans {s t u : State} : TicksTo s t → TicksTo t u → TicksTo s u
  | ⟨m, hm⟩, ⟨n, hn⟩ => ⟨m + n, by rw [ticks_add, hm, hn]⟩

theorem TicksTo.head {s t : State} (h : TicksTo s.tick t) : TicksTo s t := (TicksTo.tick s).trans h

theorem ticksTo_runSeq (k : List Stmt) {s : State} (h : s.seq = .running k) : TicksTo s (settle (runSeq k s)) := by
  induction k generalizing s with
  | nil => exact ⟨1, tick_running_nil h⟩
  | cons m ms ih =>
    rcases hm : doStmt m s with ⟨f, s'⟩
    by_cases hf : f = .go
    · subst hf
      refine .head ?_
      rw [runSeq_cons_go ms hm, tick_running_go h hm, ← settle_runSeq_seq ms (.running ms) s']
      exact ih rfl
    · rw [runSeq_cons_stop ms hm hf, ← tick_running_stop h hm hf]
      exact .tick s

/-- The same from a state that enters the sequence. -/
theorem ticksTo_settle (k : List Stmt) (s : State) : TicksTo { s with seq := .running k } (settle (runSeq k s)) := by
  rw [← settle_runSeq_seq k (.running k) s]
  exact ticksTo_runSeq k rfl

theorem ticksTo_pollOnce {q : Poll} {c : Bool} (k : List Stmt) {s : State} (h : s.seq = .polling q c k) :
    TicksTo s (pollOnce q c k s) := by
  induction k generalizing s with
  | nil =>
    refine .head ?_
    rw [tick_polling_nil h]
    exact ticksTo_settle (finalRead q c) { s with pollcnt := s.pollcnt + 1 }
  | cons m ms ih =>
    rcases hm : doStmt m s with ⟨f, s'⟩
    by_cases hf : f = .go
    · subst hf
      have hpoll : pollOnce q c (m :: ms) s = pollOnce q c ms s' := by
        unfold pollOnce; rw [runSeq_cons_go ms hm]
      refine .head ?_
      rw [hpoll, tick_polling_go h hm, ← pollOnce_seq q c ms (.polling q c ms) s']
      exact ih rfl
    · have hpoll : pollOnce q c (m :: ms) s = s'.pollAgain q c := by
        unfold pollOnce
        rw [runSeq_cons_stop ms hm hf]
        cases f with
        | go => exact absurd rfl hf
        | _ => rfl
      rw [hpoll, ← tick_polling_stop h hm hf]
      exact .tick s

theorem ticksTo_runOp (k : List Stmt) {s : State} (h : s.seq = .running k) : TicksTo s (runOp k s) := by
  have hseq := ticksTo_runSeq k h
  unfold runOp
  rcases hrun : runSeq k s with ⟨f, t⟩
  rw [hrun] at hseq
  cases f with
  | branch k' => exact hseq.trans (ticksTo_settle k' t)
  | poll q c =>
    refine hseq.trans ?_
    show TicksTo { t with seq := .polling q c (hasData q c) } (pollOnce q c (hasData q c) t)
    rw [← pollOnce_seq q c (hasData q c) (.polling q c (hasData q c)) t]
    exact ticksTo_pollOnce (hasData q c) rfl
  | _ => exact hseq

theorem ticksTo_runOn (s : State) : TicksTo s s.runOn := by
  unfold State.runOn
  split
  · exact .refl s
  · exact .tick s
  · exact ticksTo_runOp _ ‹_›
  · exact ticksTo_pollOnce _ ‹_›

/-- With an operation started from its first statement, ticks reach what `exec` answers. -/
theorem ticksTo_exec {i : Instr} {s t : State} (h : exec i s = .next t) :
    TicksTo { s with seq := .running (sequenceOf i) } t := by
  rw [exec_eq_runOp, Host.Outcome.next.injEq] at h
  rw [← h, ← runOp_seq _ (.running (sequenceOf i)) s]
  exact ticksTo_runOp _ rfl

/-! ### Everything a tick can do -/

/-- The bound on the polls is reached by the poll that is counted next (42_transactions.md R161). -/
def BoundReached (s : State) : Prop :=
  0 < s.cfg.pollLimit.toNat ∧ s.cfg.pollLimit.toNat ≤ (s.pollcnt + 1).toNat

/-- One tick from `s`, case by case: where the sequencer stands, and what its statement does. -/
inductive TickStep (s : State) : State → Prop
  | idle (h : s.seq = .idle) : TickStep s s
  | decoded {i : Instr} (h : s.seq = .issued) (hi : decode s.cmd = .ok i) :
      TickStep s { s with seq := .running (sequenceOf i) }
  | reserved {e : DecodeError} (h : s.seq = .issued) (he : decode s.cmd = .error e) : TickStep s (s.fail .badParam)
  | ended (h : s.seq = .running []) : TickStep s (s.complete .ok 0)
  | next {m : Stmt} {ms : List Stmt} {s' : State} (h : s.seq = .running (m :: ms)) (hm : doStmt m s = (.go, s')) :
      TickStep s { s' with seq := .running ms }
  | returned {v : RetVal} {ms : List Stmt} (h : s.seq = .running (.ret v :: ms)) :
      TickStep s (s.complete .ok (v.value s))
  | failed {m : Stmt} {ms : List Stmt} {c : ResultCode} {s' : State} (h : s.seq = .running (m :: ms))
      (hm : doStmt m s = (.fail c, s')) : TickStep s (s'.fail c)
  | branched {v : Byte} {ms : List Stmt} (h : s.seq = .running (.pauseIad v :: ms)) :
      TickStep s { s with seq := .running (thresholdRest (s.buf[0].getLsbD 0) v) }
  | entered {q : Poll} {c : Bool} {ms : List Stmt} (h : s.seq = .running (.pollLoop q c :: ms)) :
      TickStep s { s with pollcnt := 0, seq := .polling q c (hasData q c) }
  | pollReady {q : Poll} {c : Bool} (h : s.seq = .polling q c []) :
      TickStep s { s with pollcnt := s.pollcnt + 1, seq := .running (finalRead q c) }
  | pollNext {q : Poll} {c : Bool} {m : Stmt} {ms : List Stmt} {s' : State} (h : s.seq = .polling q c (m :: ms))
      (hm : doStmt m s = (.go, s')) : TickStep s { s' with seq := .polling q c ms }
  | pollAgain {q : Poll} {c : Bool} {m : Stmt} {ms : List Stmt} {f : Flow} {s' : State}
      (h : s.seq = .polling q c (m :: ms)) (hm : doStmt m s = (f, s')) (hf : f ≠ .go) (hb : ¬BoundReached s') :
      TickStep s { s' with pollcnt := s'.pollcnt + 1, seq := .polling q c (hasData q c) }
  | timedOut {q : Poll} {c : Bool} {m : Stmt} {ms : List Stmt} {f : Flow} {s' : State}
      (h : s.seq = .polling q c (m :: ms)) (hm : doStmt m s = (f, s')) (hf : f ≠ .go) (hb : BoundReached s') :
      TickStep s (State.fail { s' with pollcnt := s'.pollcnt + 1 } .timeout)

theorem pollAgain_of_bound {s : State} (h : BoundReached s) (q : Poll) (c : Bool) :
    s.pollAgain q c = State.fail { s with pollcnt := s.pollcnt + 1 } .timeout := if_pos h

theorem pollAgain_of_not_bound {s : State} (h : ¬BoundReached s) (q : Poll) (c : Bool) :
    s.pollAgain q c = { s with pollcnt := s.pollcnt + 1, seq := .polling q c (hasData q c) } := if_neg h

/-- The statements that end a sequence other than by `fail`, and how. -/
theorem doStmt_flow (m : Stmt) (s : State) :
    (doStmt m s).1 = .go ∨ (∃ c, (doStmt m s).1 = .fail c) ∨ (∃ v, m = .ret v) ∨ (∃ v, m = .pauseIad v) ∨
      ∃ q c, m = .pollLoop q c := by
  cases m with
  | ret v => simp
  | pauseIad v => simp
  | pollLoop q c => simp
  | param legal => cases legal <;> simp [doStmt]
  | reset => rcases Level.low_or_high (s.level 0) with h | h <;> simp [doStmt, h]
  | checkBuf => by_cases h : s.crcreg = s.buf[8] <;> simp [doStmt, h]
  | checkRom => by_cases h : s.crcreg = s.rom[7] <;> simp [doStmt, h]
  | failIfBusy q => cases h : s.buf[0].getLsbD q.busyBit <;> simp [-BitVec.getLsbD_eq_getElem, doStmt, h]
  | _ => exact .inl rfl

theorem tickStep (s : State) : TickStep s s.tick := by
  match h : s.seq with
  | .idle => rw [tick_idle h]; exact .idle h
  | .issued =>
    match hw : decode s.cmd with
    | .ok i => rw [tick_issued h hw]; exact .decoded h hw
    | .error e => rw [tick_reserved h hw]; exact .reserved h hw
  | .running [] => rw [tick_running_nil h]; exact .ended h
  | .running (m :: ms) =>
    obtain hgo | ⟨c, hfail⟩ | ⟨v, rfl⟩ | ⟨v, rfl⟩ | ⟨q, c, rfl⟩ := doStmt_flow m s
    · have hm : doStmt m s = (.go, (doStmt m s).2) := Prod.ext hgo rfl
      rw [tick_running_go h hm]; exact .next h hm
    · have hm : doStmt m s = (.fail c, (doStmt m s).2) := Prod.ext hfail rfl
      rw [tick_running_stop h hm nofun]; exact .failed h hm
    · rw [tick_running_stop h rfl nofun]; exact .returned h
    · rw [tick_running_stop h rfl nofun]; exact .branched h
    · rw [tick_running_stop h rfl nofun]; exact .entered h
  | .polling q c [] => rw [tick_polling_nil h]; exact .pollReady h
  | .polling q c (m :: ms) =>
    by_cases hf : (doStmt m s).1 = .go
    · have hm : doStmt m s = (.go, (doStmt m s).2) := Prod.ext hf rfl
      rw [tick_polling_go h hm]; exact .pollNext h hm
    · have hm : doStmt m s = ((doStmt m s).1, (doStmt m s).2) := rfl
      rw [tick_polling_stop h hm hf]
      by_cases hb : BoundReached (doStmt m s).2
      · rw [pollAgain_of_bound hb]; exact .timedOut h hm hf hb
      · rw [pollAgain_of_not_bound hb]; exact .pollAgain h hm hf hb

/-- Package of the induction: what holds of a state and is kept by every tick holds wherever ticks lead. -/
theorem TicksTo.induct {P : State → Prop} (hstep : ∀ u v, TickStep u v → P u → P v) {s t : State} (h : TicksTo s t)
    (hs : P s) : P t := by
  obtain ⟨n, rfl⟩ := h
  induction n generalizing s with
  | zero => exact hs
  | succ n ih => exact ih (hstep s s.tick (tickStep s) hs)

/-! ### What a tick puts on the line -/

/-- `t` is `s` after the slots `es`; the registers that a completion writes and SEQ play no part. -/
def Emits (s t : State) (es : List BusEvent) : Prop :=
  SlotEffect s { t with result := s.result, rval := s.rval, busy := s.busy, done := s.done, seq := s.seq } es

/-- A statement's slots, then a change of registers that no slot makes. -/
theorem Emits.of_slots {s t u : State} {es : List BusEvent} (h : SlotEffect s t es) (hu : u = { t with
    result := u.result, rval := u.rval, busy := u.busy, done := u.done, seq := u.seq, pollcnt := u.pollcnt }) :
    Emits s u es := by
  rw [hu]
  exact ⟨h.bus, h.pins, h.drawn, h.presence, h.lineDrv, h.cmd, h.cfg, h.samples, h.agenda, h.readData, h.reads,
    rfl, rfl, rfl, rfl, rfl⟩

theorem Emits.refl (s : State) : Emits s s [] := SlotEffect.none rfl

theorem Emits.trans {s t u : State} {a b : List BusEvent} (h : Emits s t a) (h' : Emits t u b) : Emits s u (a ++ b) :=
  SlotEffect.trans h ⟨h'.bus, h'.pins, h'.drawn, h'.presence, h'.lineDrv, h'.cmd, h'.cfg, h'.samples, h'.agenda,
    h'.readData, h'.reads, rfl, rfl, rfl, rfl, rfl⟩

theorem doStmt_effect_of_eq {m : Stmt} {s s' : State} {f : Flow} (hm : doStmt m s = (f, s')) :
    ∃ es, SlotEffect s s' es ∧ es.length ≤ 1 := by
  have h := doStmt_effect m s
  rwa [hm] at h

/-- One tick is at most one slot (10_state.md R30). -/
theorem TickStep.emits {s t : State} (h : TickStep s t) : ∃ es, Emits s t es ∧ es.length ≤ 1 := by
  have hquiet {u : State} (hu : u = { s with
      result := u.result, rval := u.rval, busy := u.busy, done := u.done, seq := u.seq, pollcnt := u.pollcnt }) :
      ∃ es, Emits s u es ∧ es.length ≤ 1 := ⟨[], .of_slots (.none rfl) hu, by simp⟩
  have hslot {m : Stmt} {f : Flow} {s' u : State} (hm : doStmt m s = (f, s')) (hu : u = { s' with
      result := u.result, rval := u.rval, busy := u.busy, done := u.done, seq := u.seq, pollcnt := u.pollcnt }) :
      ∃ es, Emits s u es ∧ es.length ≤ 1 := by
    obtain ⟨es, hes, hlen⟩ := doStmt_effect_of_eq hm
    exact ⟨es, .of_slots hes hu, hlen⟩
  cases h with
  | next _ hm => exact hslot hm rfl
  | failed _ hm => exact hslot hm rfl
  | pollNext _ hm => exact hslot hm rfl
  | pollAgain _ hm _ _ => exact hslot hm rfl
  | timedOut _ hm _ _ => exact hslot hm rfl
  | _ => exact hquiet rfl

theorem TicksTo.emits {s t : State} (h : TicksTo s t) : ∃ es, Emits s t es :=
  h.induct (P := fun u => ∃ es, Emits s u es)
    (fun _ _ hstep ⟨a, ha⟩ => let ⟨b, hb, _⟩ := hstep.emits; ⟨a ++ b, ha.trans hb⟩) ⟨[], .refl s⟩

/-! ### The states an operation reaches -/

/-- An operation reaches its issued state, and what ticks reach from its first statement. -/
theorem ticksTo_of_reaches {i : Instr} {s t : State} (h : reaches i s t) :
    (s.seq = .issued ∧ t = s) ∨ TicksTo { s with seq := .running (sequenceOf i) } t := by
  obtain hexec | ⟨hseq, hi, n, ht⟩ := h
  · exact .inr (ticksTo_exec hexec)
  · have hto : TicksTo (State.ticks n s) t := by
      obtain rfl | rfl := ht
      · exact .refl _
      · exact ticksTo_runOn _
    cases n with
    | zero =>
      obtain rfl | rfl := ht
      · exact .inl ⟨hseq, rfl⟩
      · refine .inr ?_
        have hrun : s.runOn = s.tick := by simp [State.runOn, hseq]
        rw [State.ticks, hrun, tick_issued hseq hi]
        exact .refl _
    | succ n =>
      refine .inr ?_
      rw [← tick_issued hseq hi]
      exact TicksTo.trans ⟨n, rfl⟩ hto

/-- Settles O57: `exec` and `runOn` are runs of ticks, and a tick is at most one statement. -/
theorem execIsTheSequencerRunOn : Obligations.ExecIsTheSequencerRunOn := by
  refine ⟨fun i s t hseq hi hexec => ?_, ticksTo_runOn, fun s => ?_⟩
  · have h := ticksTo_exec hexec
    rw [← tick_issued hseq hi] at h
    exact h.head
  · obtain ⟨es, h, hlen⟩ := (tickStep s).emits
    exact ⟨es, h.bus, hlen⟩

/-- Settles O54: every run of ticks is a run of whole slots. -/
theorem operationsReachTheLineOnlyBySlots : Obligations.OperationsReachTheLineOnlyBySlots := by
  intro i s t h
  have hes : ∃ es, Emits s t es := by
    obtain ⟨-, rfl⟩ | hto := ticksTo_of_reaches h
    · exact ⟨[], .refl t⟩
    · obtain ⟨es, hes⟩ := hto.emits
      exact ⟨es, Emits.trans (a := []) (.of_slots (.none rfl) rfl) hes⟩
  obtain ⟨es, h⟩ := hes
  refine ⟨es, h.bus, h.pins, h.drawn, h.presence, fun hd => ?_⟩
  have hline := h.lineDrv
  rw [hd, ite_self] at hline
  exact hline

end Sys2Proof.Proofs

/-! The invariant of Safety.lean (10_state.md R26, R30, R31, R32, R35): every tick keeps it, and with it every step,
whichever agent moves. -/

namespace Sys2Proof.Proofs

open Sys2Proof Sys2Proof.Machine Sys2Proof.Claims

/-! ### BUSY, DONE and SEQ -/

/-- A tick of an idle core changes nothing; any other goes on with RESULT, RVAL, BUSY and DONE as they were, or completes. -/
theorem TickStep.control {s t : State} (h : TickStep s t) :
    (s.seq = .idle ∧ t = s) ∨
    (s.seq ≠ .idle ∧ t.seq ≠ .idle ∧ t.result = s.result ∧ t.rval = s.rval ∧ t.busy = s.busy ∧ t.done = s.done) ∨
    (s.seq ≠ .idle ∧ t.seq = .idle ∧ t.busy = false ∧ t.done = true) := by
  have hgo {m : Stmt} {f : Flow} {s' u : State} (hm : doStmt m s = (f, s'))
      (hu : u = { s' with seq := u.seq, pollcnt := u.pollcnt }) :
      u.result = s.result ∧ u.rval = s.rval ∧ u.busy = s.busy ∧ u.done = s.done := by
    obtain ⟨es, hes, -⟩ := doStmt_effect_of_eq hm
    rw [hu]
    exact ⟨hes.result, hes.rval, hes.busy, hes.done⟩
  cases h with
  | idle h => exact .inl ⟨h, rfl⟩
  | decoded h _ => exact .inr (.inl ⟨by simp [h], nofun, rfl, rfl, rfl, rfl⟩)
  | reserved h _ => exact .inr (.inr ⟨by simp [h], rfl, rfl, rfl⟩)
  | ended h => exact .inr (.inr ⟨by simp [h], rfl, rfl, rfl⟩)
  | next h hm => exact .inr (.inl ⟨by simp [h], nofun, hgo hm rfl⟩)
  | returned h => exact .inr (.inr ⟨by simp [h], rfl, rfl, rfl⟩)
  | failed h _ => exact .inr (.inr ⟨by simp [h], rfl, rfl, rfl⟩)
  | branched h => exact .inr (.inl ⟨by simp [h], nofun, rfl, rfl, rfl, rfl⟩)
  | entered h => exact .inr (.inl ⟨by simp [h], nofun, rfl, rfl, rfl, rfl⟩)
  | pollReady h => exact .inr (.inl ⟨by simp [h], nofun, rfl, rfl, rfl, rfl⟩)
  | pollNext h hm => exact .inr (.inl ⟨by simp [h], nofun, hgo hm rfl⟩)
  | pollAgain h hm _ _ => exact .inr (.inl ⟨by simp [h], nofun, hgo hm rfl⟩)
  | timedOut h _ _ _ => exact .inr (.inr ⟨by simp [h], rfl, rfl, rfl⟩)

theorem TickStep.keeps_flags {s t : State} (h : TickStep s t) (hf : s.FlagsExclusive) (hb : s.SeqMatchesBusy) :
    t.FlagsExclusive ∧ t.SeqMatchesBusy := by
  obtain ⟨-, rfl⟩ | ⟨hs, ht, -, -, hbusy, hdone⟩ | ⟨-, ht, hbusy, -⟩ := h.control
  · exact ⟨hf, hb⟩
  · have hrun : s.busy = true := hb.mpr hs
    exact ⟨by rw [State.FlagsExclusive, hbusy, hdone]; exact hf, by simp [State.SeqMatchesBusy, hbusy, hrun, ht]⟩
  · exact ⟨by simp [State.FlagsExclusive, hbusy], by simp [State.SeqMatchesBusy, hbusy, ht]⟩

/-! ### The line and the histories -/

/-- A run of slots keeps what is said of PRESENCE, the line and the samples. -/
theorem Emits.keeps_line {s t : State} {es : List BusEvent} (h : Emits s t es) (hp : s.PresenceIsLastReset)
    (hl : s.LineReleased) (hc : s.SamplesCounted) : t.PresenceIsLastReset ∧ t.LineReleased ∧ t.SamplesCounted := by
  obtain ⟨hdrv, hdriving, hreleased⟩ := hl
  obtain ⟨hdriving', hreleased'⟩ := slots_released s.cfg es
  have hpins : t.pins = s.pins ++ es.flatMap (slotPins s.cfg) := h.pins
  have hline : t.lineDrv = if es = [] then s.lineDrv else false := h.lineDrv
  have hbus : t.bus = s.bus ++ es := h.bus
  have hpresence : t.presence = presenceIn s.presence es := h.presence
  have hdrawn : t.drawn = s.drawn + samplesIn (es.flatMap (slotPins s.cfg)) := h.drawn
  refine ⟨?_, ⟨?_, ?_, ?_⟩, ?_⟩
  · rw [State.PresenceIsLastReset, hpresence, hp, hbus, presenceIn_append]
  · rw [hline, hdrv, ite_self]
  · rw [hpins, drivingAfter_append, hdriving, hdriving']
  · rw [hpins, samplesReleased_append, hdriving, hreleased, hreleased']; rfl
  · rw [State.SamplesCounted, hpins, samplesIn_append, hc, hdrawn]

/-! ### The counters -/

@[simp] theorem touchBit_bitcnt (s : State) : s.touchBit.bitcnt = s.bitcnt + 1 := by
  unfold State.touchBit; split <;> simp [State.sendBit, State.recvBit]

@[simp] theorem touchBit_bytecnt (s : State) : s.touchBit.bytecnt = s.bytecnt := by
  unfold State.touchBit; split <;> simp [State.sendBit, State.recvBit]

/-- A statement keeps the counters in range where the check allows it. -/
theorem doStmt_keeps_counts {m : Stmt} {ms : List Stmt} {s : State} (hbit : s.bitcnt.toNat ≤ 8)
    (hbyte : s.bytecnt.toNat ≤ 9) (hfit : countsFit s.bitcnt.toNat s.bytecnt.toNat (m :: ms) = true) :
    (doStmt m s).2.bitcnt.toNat ≤ 8 ∧ (doStmt m s).2.bytecnt.toNat ≤ 9 ∧
      ((doStmt m s).1 = .go → countsFit (doStmt m s).2.bitcnt.toNat (doStmt m s).2.bytecnt.toNat ms = true) := by
  have hbit' : s.bitcnt.toNat + 1 < 16 := by omega
  have hbyte' : s.bytecnt.toNat + 1 < 16 := by omega
  cases m with
  | param legal => cases legal <;> simp_all [doStmt, countsFit]
  | crcBit src k i => cases src <;> simp_all [doStmt, countsFit]
  | storeRom => simp_all [doStmt, countsFit, Nat.mod_eq_of_lt]; omega
  | sendBit | recvBit | touchBit | storeBuf | nextByte =>
    simp_all [doStmt, countsFit, State.sendBit, State.recvBit, Nat.mod_eq_of_lt]
  | _ => simp_all [doStmt, countsFit]

/-! ### The check, frame by frame: where the counters stand after it -/

@[simp] theorem countsFit_writeByteSeq (x : Byte) (bit byte : Nat) (ms : List Stmt) :
    countsFit bit byte (writeByteSeq x ++ ms) = countsFit 8 byte ms := rfl

@[simp] theorem countsFit_readByteSeq (bit byte : Nat) (ms : List Stmt) :
    countsFit bit byte (readByteSeq ++ ms) = countsFit 8 byte ms := rfl

@[simp] theorem countsFit_touchByteSeq (x : Byte) (bit byte : Nat) (ms : List Stmt) :
    countsFit bit byte (touchByteSeq x ++ ms) = countsFit 8 byte ms := rfl

/-- A loop over at most `N` bytes, whose body counts one byte. -/
theorem countsFit_repeatSeq {N : Nat} {body : List Stmt}
    (hbody : ∀ byte < N, ∀ bit ms, countsFit bit byte (body ++ ms) = countsFit 8 (byte + 1) ms) {n byte : Nat}
    (h : byte + n ≤ N) (bit : Nat) (ms : List Stmt) :
    countsFit bit byte (repeatSeq n body ++ ms) = countsFit (if n = 0 then bit else 8) (byte + n) ms := by
  induction n generalizing bit byte with
  | zero => rfl
  | succ n ih =>
    have hseq : repeatSeq (n + 1) body ++ ms = body ++ (repeatSeq n body ++ ms) := by
      simp [repeatSeq, List.replicate_succ]
    rw [hseq, hbody byte (by omega), ih (by omega), ite_self, if_neg (by omega), Nat.add_right_comm, Nat.add_assoc]

theorem countsFit_touchInPlace (byte : Nat) (h : byte < 9) (bit : Nat) (ms : List Stmt) :
    countsFit bit byte (.loadBuf :: List.replicate 8 .touchBit ++ [.storeBuf] ++ ms) = countsFit 8 (byte + 1) ms := by
  simp [countsFit, List.replicate_succ, h]

@[simp] theorem countsFit_receivePageSeq (bit byte : Nat) (ms : List Stmt) :
    countsFit bit byte (receivePageSeq ++ ms) = countsFit 8 9 ms :=
  countsFit_repeatSeq (N := 9) (byte := 0) (fun _ h _ _ => by simp [countsFit, h]) (by omega) bit ms

@[simp] theorem countsFit_receiveRomSeq (bit byte : Nat) (ms : List Stmt) :
    countsFit bit byte (receiveRomSeq ++ ms) = countsFit 8 8 ms :=
  countsFit_repeatSeq (N := 8) (byte := 0) (fun _ h _ _ => by simp [countsFit, h]) (by omega) bit ms

@[simp] theorem countsFit_sendPageSeq (bit byte : Nat) (ms : List Stmt) :
    countsFit bit byte (sendPageSeq ++ ms) = countsFit 8 9 ms :=
  countsFit_repeatSeq (N := 9) (byte := 0)
    (fun _ h _ _ => by simp [countsFit, writeBufSeq, List.replicate_succ, h]) (by omega) bit ms

theorem countsFit_map_crcBit (src : CrcSource) {k : Nat} (hk : k < 8 ∨ src = .buf ∧ k < 9) (bit byte : Nat)
    (ms : List Stmt) :
    countsFit bit byte (((List.range 8).map fun i => .crcBit src k i) ++ ms) = countsFit bit byte ms := by
  have hk9 : k < 9 := by rcases hk with h | ⟨-, h⟩ <;> omega
  cases src with
  | buf => simp [List.range_succ, countsFit, hk9]
  | rom => simp [List.range_succ, countsFit, hk.resolve_right nofun]

/-- A CRC evaluation stays within BUF and ROM and leaves the counters alone. -/
theorem countsFit_crcSeq (src : CrcSource) {n : Nat} (hn : n ≤ 8 ∨ src = .buf ∧ n ≤ 9) (bit byte : Nat)
    (ms : List Stmt) : countsFit bit byte (crcSeq src n ++ ms) = countsFit bit byte ms := by
  induction n generalizing ms with
  | zero => rfl
  | succ n ih =>
    have hseq : crcSeq src (n + 1) = crcSeq src n ++ (List.range 8).map fun i => .crcBit src n i := by
      simp [crcSeq, List.range_succ (n := n)]
    have hlt : n < 8 ∨ src = .buf ∧ n < 9 := hn.imp_right fun h => h
    rw [hseq, List.append_assoc, ih (hlt.imp Nat.le_of_lt fun h => ⟨h.1, Nat.le_of_lt h.2⟩),
      countsFit_map_crcBit src hlt]

@[simp] theorem countsFit_checkBufSeq (bit byte : Nat) (ms : List Stmt) :
    countsFit bit byte (checkBufSeq ++ ms) = countsFit bit byte ms := by
  rw [checkBufSeq, List.append_assoc, countsFit_crcSeq .buf (.inl (by omega))]; rfl

@[simp] theorem countsFit_checkRomSeq (bit byte : Nat) (ms : List Stmt) :
    countsFit bit byte (checkRomSeq ++ ms) = countsFit bit byte ms := by
  rw [checkRomSeq, List.append_assoc, countsFit_crcSeq .rom (.inl (by omega))]; rfl

@[simp] theorem countsFit_pageFrame (command page : Byte) (bit byte : Nat) (ms : List Stmt) :
    countsFit bit byte (pageFrame command page ++ ms) = countsFit 8 byte ms := by
  simp [pageFrame, functionFrame, countsFit]

@[simp] theorem countsFit_pageRead (p : Byte) (bit byte : Nat) (ms : List Stmt) :
    countsFit bit byte (pageRead p ++ ms) = (!legalPage p || countsFit 8 9 ms) := by
  simp [pageRead, countsFit]

@[simp] theorem countsFit_pageWrite (p : Byte) (bit byte : Nat) (ms : List Stmt) :
    countsFit bit byte (pageWrite p ++ ms) = (!legalPage p || countsFit 8 9 ms) := by
  simp [pageWrite, countsFit]

@[simp] theorem countsFit_pageReadChecked (p : Byte) (c : Bool) (bit byte : Nat) (ms : List Stmt) :
    countsFit bit byte (pageReadChecked p c ++ ms) = (!legalPage p || countsFit 8 9 ms) := by
  cases c <;> simp [pageReadChecked]

theorem countsFit_pageWrite_nil (p : Byte) (bit byte : Nat) : countsFit bit byte (pageWrite p) = true := by
  simpa [countsFit] using countsFit_pageWrite p bit byte []

theorem countsFit_setStatusBit (b : StatusBit) (v : Bool) (bit byte : Nat) :
    countsFit bit byte (setStatusBit b v) = true := by
  simp [setStatusBit, countsFit, countsFit_pageWrite_nil]

theorem countsFit_thresholdRest (iad : Bool) (v : Byte) (bit byte : Nat) :
    countsFit bit byte (thresholdRest iad v) = true := by
  have htail (bit byte : Nat) : countsFit bit byte (thresholdTail v) = true := by
    simp [thresholdTail, countsFit, countsFit_pageWrite_nil]
  cases iad <;> simp [thresholdRest, setStatusBit, htail, countsFit]

theorem countsFit_hasData (q : Poll) (c : Bool) (bit byte : Nat) : countsFit bit byte (hasData q c) = true := by
  simp [hasData, countsFit]

theorem countsFit_finalRead (q : Poll) (c : Bool) (bit byte : Nat) : countsFit bit byte (finalRead q c) = true := by
  simp [finalRead, countsFit]

@[simp] theorem countsFit_functionFrame (command : Byte) (bit byte : Nat) (ms : List Stmt) :
    countsFit bit byte (functionFrame command ++ ms) = countsFit 8 byte ms := by
  simp [functionFrame, countsFit]

theorem countsFit_startConversion (q : Poll) (bit byte : Nat) (ms : List Stmt) :
    countsFit bit byte (startConversion q ++ ms) = countsFit 8 byte ms := by
  cases q <;> exact countsFit_functionFrame _ bit byte ms

theorem countsFit_romRead (c : Bool) (bit byte : Nat) : countsFit bit byte (romRead c) = true := by
  show countsFit bit byte (writeByteSeq 0x33 ++ receiveRomSeq ++ (if c then checkRomSeq else [])) = true
  rw [List.append_assoc, countsFit_writeByteSeq, countsFit_receiveRomSeq]
  cases c
  · rfl
  · simpa [countsFit] using countsFit_checkRomSeq 8 8 []

/-- Every operation keeps the counters in range, wherever they stand when it starts. -/
theorem countsFit_sequenceOf (i : Instr) (bit byte : Nat) : countsFit bit byte (sequenceOf i) = true := by
  have happend_nil {k : List Stmt} (h : countsFit bit byte (k ++ []) = true) : countsFit bit byte k = true := by
    rwa [List.append_nil] at h
  have hcrc (n : BitVec 4) (v : RetVal) :
      countsFit bit byte (.param (legalLen n) :: (crcSeq .buf n.toNat ++ [.ret v])) = true := by
    cases hn : legalLen n
    · rfl
    · simp [countsFit, countsFit_crcSeq .buf (.inr ⟨rfl, of_decide_eq_true hn⟩)]
  cases i with
  | crc8Compute n => exact hcrc n _
  | crc8Check e n => exact hcrc n _
  | touchBlock n =>
    show (!legalLen n || countsFit bit 0 (repeatSeq n.toNat _)) = true
    cases hn : legalLen n
    · rfl
    · have hblock := countsFit_repeatSeq (N := 9) countsFit_touchInPlace (n := n.toNat) (byte := 0)
        (by simpa using of_decide_eq_true hn) bit []
      rw [List.append_nil] at hblock
      rw [hblock]; rfl
  | reset | readBit | devicePresent | decodeTemperature | decodeVoltage | decodeCurrent | decodeCapacity => rfl
  | writeBit v => simp [sequenceOf, seqWriteBit, countsFit]
  | writeByte x => exact happend_nil (countsFit_writeByteSeq x bit byte [])
  | readByte => exact countsFit_readByteSeq bit byte _
  | touchByte x => exact countsFit_touchByteSeq x bit byte _
  | readRom c => exact countsFit_romRead c bit byte
  | readSerialNumber c => exact countsFit_romRead c bit byte
  | startVoltageConversion => exact happend_nil (countsFit_startConversion .voltage bit byte [])
  | startTemperatureConversion => exact happend_nil (countsFit_startConversion .temperature bit byte [])
  | readVoltage c => exact countsFit_startConversion .voltage bit byte _
  | readTemperature c => exact countsFit_startConversion .temperature bit byte _
  | readPage p => exact happend_nil ((countsFit_pageRead p bit byte []).trans (Bool.or_true _))
  | writePage p => exact happend_nil ((countsFit_pageWrite p bit byte []).trans (Bool.or_true _))
  | hasVoltageData c => exact countsFit_hasData .voltage c bit byte
  | hasTemperatureData c => exact countsFit_hasData .temperature c bit byte
  | copyInProgress => exact countsFit_pageRead 0 bit byte _
  | readThreshold c => exact countsFit_pageReadChecked 0 c bit byte _
  | getIca c => exact countsFit_pageReadChecked 1 c bit byte _
  | getCapacity c => exact countsFit_pageReadChecked 1 c bit byte _
  | selectInputSource v c => simp [sequenceOf, seqSelectInputSource, countsFit, countsFit_pageWrite_nil]
  | enableIad | disableIad | enableCa | disableCa | enableShadowEe | disableShadowEe =>
    exact countsFit_setStatusBit _ _ bit byte
  | writeThreshold v => simp [sequenceOf, seqWriteThreshold, countsFit]

/-! ### The invariant -/

theorem TickStep.keeps_counts {s t : State} (h : TickStep s t) (hc : s.CountersInRange) : t.CountersInRange := by
  obtain ⟨hbit, hbyte, hfit⟩ := hc
  have hdo {m : Stmt} {ms : List Stmt} {f : Flow} {s' : State} (hrest : s.seq.rest = m :: ms)
      (hm : doStmt m s = (f, s')) :
      s'.bitcnt.toNat ≤ 8 ∧ s'.bytecnt.toNat ≤ 9 ∧
        (f = .go → countsFit s'.bitcnt.toNat s'.bytecnt.toNat ms = true) := by
    rw [hrest] at hfit
    have hkeeps := doStmt_keeps_counts hbit hbyte hfit
    rwa [hm] at hkeeps
  cases h with
  | idle _ => exact ⟨hbit, hbyte, hfit⟩
  | decoded _ _ => exact ⟨hbit, hbyte, countsFit_sequenceOf _ _ _⟩
  | reserved _ _ => exact ⟨hbit, hbyte, rfl⟩
  | ended _ => exact ⟨hbit, hbyte, rfl⟩
  | next h hm =>
    obtain ⟨hbit', hbyte', hfit'⟩ := hdo (congrArg Seq.rest h) hm
    exact ⟨hbit', hbyte', hfit' rfl⟩
  | returned _ => exact ⟨hbit, hbyte, rfl⟩
  | failed h hm =>
    obtain ⟨hbit', hbyte', -⟩ := hdo (congrArg Seq.rest h) hm
    exact ⟨hbit', hbyte', rfl⟩
  | branched _ => exact ⟨hbit, hbyte, countsFit_thresholdRest _ _ _ _⟩
  | entered _ => exact ⟨hbit, hbyte, countsFit_hasData _ _ _ _⟩
  | pollReady _ => exact ⟨hbit, hbyte, countsFit_finalRead _ _ _ _⟩
  | pollNext h hm =>
    obtain ⟨hbit', hbyte', hfit'⟩ := hdo (congrArg Seq.rest h) hm
    exact ⟨hbit', hbyte', hfit' rfl⟩
  | pollAgain h hm _ _ =>
    obtain ⟨hbit', hbyte', -⟩ := hdo (congrArg Seq.rest h) hm
    exact ⟨hbit', hbyte', countsFit_hasData _ _ _ _⟩
  | timedOut h hm _ _ =>
    obtain ⟨hbit', hbyte', -⟩ := hdo (congrArg Seq.rest h) hm
    exact ⟨hbit', hbyte', rfl⟩

theorem TickStep.keeps_inv {s t : State} (h : TickStep s t) (hs : s.Inv) : t.Inv := by
  obtain ⟨hflags, hseq, hpresence, hline, hsamples, hcounts⟩ := hs
  obtain ⟨hflags', hseq'⟩ := h.keeps_flags hflags hseq
  obtain ⟨es, hes, -⟩ := h.emits
  obtain ⟨hpresence', hline', hsamples'⟩ := hes.keeps_line hpresence hline hsamples
  exact ⟨hflags', hseq', hpresence', hline', hsamples', h.keeps_counts hcounts⟩

theorem TicksTo.keeps_inv {s t : State} (h : TicksTo s t) (hs : s.Inv) : t.Inv :=
  h.induct (fun _ _ => TickStep.keeps_inv) hs

/-! ### The core's move -/

theorem coreStep_idle {s : State} (hb : s.busy = false) (h : s.seq = .idle) : coreStep s = .next s := by
  simp [coreStep, hb, h]

theorem coreStep_issued {s : State} {i : Instr} (hb : s.busy = true) (h : s.seq = .issued) (hi : decode s.cmd = .ok i) :
    coreStep s = exec i s := by simp [coreStep, hb, h, hi]

theorem coreStep_reserved {s : State} {e : DecodeError} (hb : s.busy = true) (h : s.seq = .issued)
    (he : decode s.cmd = .error e) : coreStep s = .next (s.fail .badParam) := by simp [coreStep, hb, h, he]

theorem coreStep_running {s : State} {k : List Stmt} (hb : s.busy = true) (h : s.seq = .running k) :
    coreStep s = .next s.runOn := by simp [coreStep, hb, h]

theorem coreStep_polling {s : State} {q : Poll} {c : Bool} {k : List Stmt} (hb : s.busy = true)
    (h : s.seq = .polling q c k) : coreStep s = .next s.runOn := by simp [coreStep, hb, h]

/-- Where BUSY and SEQ agree the core has a next state, and it is some number of ticks away. -/
theorem exists_coreStep {s : State} (h : s.SeqMatchesBusy) : ∃ t, coreStep s = .next t ∧ TicksTo s t := by
  cases hseq : s.seq with
  | idle =>
    have hb : s.busy = false := by
      rw [State.SeqMatchesBusy, hseq] at h
      simpa using h
    exact ⟨s, coreStep_idle hb hseq, .refl s⟩
  | issued =>
    have hb : s.busy = true := h.mpr (by simp [hseq])
    cases hi : decode s.cmd with
    | error e => exact ⟨_, coreStep_reserved hb hseq hi, tick_reserved hseq hi ▸ .tick s⟩
    | ok i =>
      have hexec := exec_eq_runOp i s
      have hto := ticksTo_exec hexec
      rw [← tick_issued hseq hi] at hto
      exact ⟨_, (coreStep_issued hb hseq hi).trans hexec, hto.head⟩
  | running k => exact ⟨_, coreStep_running (h.mpr (by simp [hseq])) hseq, ticksTo_runOn s⟩
  | polling q c k => exact ⟨_, coreStep_polling (h.mpr (by simp [hseq])) hseq, ticksTo_runOn s⟩

/-! ### The host's and the reset input's moves -/

theorem hostWrite_keeps_inv {s : State} (h : s.Inv) (off : BitVec 6) (v : Word) : (s.hostWrite off v).Inv := by
  unfold State.hostWrite
  split_ifs with hb h0 hbuf
  · exact h
  · obtain ⟨-, -, hpresence, hline, hsamples, hbit, hbyte, -⟩ := h
    exact ⟨by simp [State.FlagsExclusive], by simp [State.SeqMatchesBusy], hpresence, hline, hsamples, hbit, hbyte, rfl⟩
  · exact h
  · exact h

theorem samplesReleased_take {d : Bool} {es : List PinEvent} (h : samplesReleased d es = true) (n : Nat) :
    samplesReleased d (es.take n) = true := by
  rw [← List.take_append_drop n es, samplesReleased_append, Bool.and_eq_true] at h
  exact h.1

/-- The pin primitives ahead are those of whole slots, which sample only with the line released. -/
theorem samplesReleased_pinsAhead (s : State) : samplesReleased false s.pinsAhead = true := by
  obtain ⟨es, hes, -⟩ := (tickStep s).emits
  have hpins : s.tick.pins = s.pins ++ es.flatMap (slotPins s.cfg) := hes.pins
  rw [State.pinsAhead, hpins, List.drop_left]
  exact (slots_released s.cfg es).2

/-- `rst` releases the line at once, wherever in a slot it comes (70_reset_and_hazards.md R252). -/
theorem rstAfter_lineReleased {s : State} (h : s.LineReleased) (n : Nat) : (s.rstAfter n).LineReleased := by
  obtain ⟨hdrv, hdriving, hreleased⟩ := h
  have hcut : samplesReleased false (s.pinsAhead.take n) = true :=
    samplesReleased_take (samplesReleased_pinsAhead s) n
  refine ⟨rfl, ?_, ?_⟩ <;> simp only [State.rstAfter, hdrv]
  · cases hd : drivingAfter false (s.pinsAhead.take n) <;> simp [drivingAfter_append, hdriving, hd, drivingAfter]
  · cases hd : drivingAfter false (s.pinsAhead.take n) <;>
      simp [samplesReleased_append, hdriving, hreleased, hcut, samplesReleased]

theorem rstAfter_samplesCounted {s : State} (h : s.SamplesCounted) (n : Nat) : (s.rstAfter n).SamplesCounted := by
  simp only [State.SamplesCounted, State.rstAfter, samplesIn_append, h]
  cases drivingAfter s.lineDrv (s.pinsAhead.take n) <;> rfl

theorem rstAfter_keeps_inv {s : State} (h : s.Inv) (n : Nat) : (s.rstAfter n).Inv := by
  obtain ⟨-, -, -, hline, hsamples, -⟩ := h
  exact ⟨by simp [State.FlagsExclusive, State.rstAfter, State.reset],
    by simp [State.SeqMatchesBusy, State.rstAfter, State.reset], rfl, rstAfter_lineReleased hline n,
    rstAfter_samplesCounted hsamples n, Nat.zero_le _, Nat.zero_le _, rfl⟩

theorem takeTurn_keeps_inv {s t : State} {turn : Turn} (h : takeTurn turn s = .next t) (hs : s.Inv) : t.Inv := by
  cases turn with
  | write off v => cases h; exact hostWrite_keeps_inv hs off v
  | read off => cases h; exact hs
  | slot => cases h; exact (tickStep s).keeps_inv hs
  | rst n => cases h; exact rstAfter_keeps_inv hs n
  | core =>
    obtain ⟨u, hu, hto⟩ := exists_coreStep hs.2.1
    cases hu.symm.trans h
    exact hto.keeps_inv hs

/-! ### The statements -/

/-- Settles O2: every part of the invariant is evaluated. -/
theorem resetStateMeetsInvariant : Obligations.ResetStateMeetsInvariant := by
  unfold Obligations.ResetStateMeetsInvariant; decide

/-- Settles O1: the reset state is given by its fields. -/
theorem resetValuesAsTabled : Obligations.ResetValuesAsTabled := by
  unfold Obligations.ResetValuesAsTabled; decide

/-- Settles O55: the core's move is a run of ticks; the other agents' moves are taken one by one. -/
theorem everyStepKeepsInvariant : Obligations.EveryStepKeepsInvariant := by
  intro s t hs h
  unfold step at h
  split at h
  · obtain ⟨u, hu, hto⟩ := exists_coreStep hs.2.1
    cases hu.symm.trans h
    exact hto.keeps_inv hs
  · exact takeTurn_keeps_inv h hs

end Sys2Proof.Proofs

/-! The agents' turns (10_state.md R25 to R30; 70_reset_and_hazards.md R250 to R252, R258): one step of the machine where
the host, the reset input or the core moves. -/

namespace Sys2Proof.Proofs

open Sys2Proof Sys2Proof.Machine Sys2Proof.Claims

/-! ### One step, by the head of the agenda -/

theorem step_of_agenda_nil {s : State} (h : s.agenda = []) : step s = coreStep s := by simp [step, h]

theorem step_of_agenda_cons {s : State} {turn : Turn} {rest : List Turn} (h : s.agenda = turn :: rest) :
    step s = takeTurn turn { s with agenda := rest } := by simp [step, h]

/-- Settles O3: `rstAfter` is the reset state but for the fields that are no registers. -/
theorem rstRestoresResetState : Obligations.RstRestoresResetState := by
  intro s n rest h
  exact ⟨_, step_of_agenda_cons h, rfl, fun hline => rstAfter_lineReleased (s := { s with agenda := rest }) hline n⟩

/-- Settles O8: nothing stands between the step and `exec`. -/
theorem stepRunsDecodedOperation : Obligations.StepRunsDecodedOperation := by
  intro s i hb hseq hagenda hi
  rw [step_of_agenda_nil hagenda, coreStep_issued hb hseq hi]

/-- Settles O9: `fail BadParam` changes the completion registers only. -/
theorem reservedWordCompletesWithBadParam : Obligations.ReservedWordCompletesWithBadParam := by
  intro s e hb hseq hagenda he
  rw [step_of_agenda_nil hagenda, coreStep_reserved hb hseq he]; rfl

/-- Settles O56: the turns of the agenda answer a state by definition, the core's move where BUSY and SEQ agree. -/
theorem coherentStateAlwaysSteps : Obligations.CoherentStateAlwaysSteps := by
  intro s h
  cases hagenda : s.agenda with
  | nil =>
    obtain ⟨t, ht, -⟩ := exists_coreStep h
    exact ⟨t, (step_of_agenda_nil hagenda).trans ht⟩
  | cons turn rest =>
    rw [step_of_agenda_cons hagenda]
    cases turn with
    | core =>
      obtain ⟨t, ht, -⟩ := exists_coreStep (s := { s with agenda := rest }) h
      exact ⟨t, ht⟩
    | _ => exact ⟨_, rfl⟩

/-! ### Host writes -/

theorem hostWrite_of_busy {s : State} (h : s.busy = true) (off : BitVec 6) (v : Word) : s.hostWrite off v = s := if_pos h

theorem hostWrite_cmd {s : State} (h : s.busy = false) (v : Word) : s.hostWrite 0x00 v = s.issue v := by
  simp [State.hostWrite, h]

theorem hostWrite_buf {s : State} (h : s.busy = false) {off : BitVec 6} {i : Fin 9} (hoff : off.toNat = 0x20 + i.val)
    (v : Word) : s.hostWrite off v = s.writeBuf i.val (v.truncate 8) := by
  have hi := i.isLt
  rw [State.hostWrite, if_neg (by simp [h]), if_neg (by omega), if_pos (by omega), hoff, Nat.add_sub_cancel_left]

theorem hostWrite_elsewhere {s : State} (h : s.busy = false) {off : BitVec 6} (hcmd : off ≠ 0x00)
    (hbuf : off.toNat < 0x20 ∨ 0x28 < off.toNat) (v : Word) : s.hostWrite off v = s := by
  have hne : off.toNat ≠ 0x00 := fun h0 => hcmd (BitVec.eq_of_toNat_eq h0)
  rw [State.hostWrite, if_neg (by simp [h]), if_neg hne, if_neg (by omega)]

/-- Settles O4: the write that issues. -/
theorem hostWriteToCmdIssues : Obligations.HostWriteToCmdIssues := by
  intro s w rest hb h
  rw [step_of_agenda_cons h]
  exact congrArg Host.Outcome.next (hostWrite_cmd (s := { s with agenda := rest }) hb w)

/-- Settles O5: busy, a BUF offset, and every other offset but that of CMD. -/
theorem hostWritesReachOnlyCmdAndBuf : Obligations.HostWritesReachOnlyCmdAndBuf := by
  intro s off v rest h
  rw [step_of_agenda_cons h]
  refine ⟨fun hb => congrArg _ (hostWrite_of_busy (s := { s with agenda := rest }) hb off v), fun hb i hoff => ?_,
    fun hb hcmd hbuf => congrArg _ (hostWrite_elsewhere (s := { s with agenda := rest }) hb hcmd hbuf v)⟩
  have hbyte : v.extractLsb' 0 8 = v.truncate 8 := by
    apply BitVec.eq_of_toNat_eq; simp
  refine congrArg _ ((hostWrite_buf (s := { s with agenda := rest }) hb hoff v).trans ?_)
  rw [State.writeBuf, hbyte]
  congr 1
  ext j hj
  simp [Vector.getElem_set, Vector.getElem_setIfInBounds]

/-! ### Host reads -/

theorem statusWord_toNat (s : State) :
    s.statusWord.toNat = s.busy.toNat + 2 * s.done.toNat + 4 * s.presence.toNat := by
  cases hb : s.busy <;> cases hd : s.done <;> cases hp : s.presence <;> simp [State.statusWord, hb, hd, hp]

theorem resultWord_eq (s : State) : s.resultWord = match s.result with
    | .ok => 0 | .deviceNotFound => 1 | .crcFail => 2 | .badParam => 3 | .error => 4 | .timeout => 5 := by
  cases h : s.result <;> simp [State.resultWord, h, ResultCode.code]

/-- How far a read runs ahead of the sequencer: not at all while BUSY = 0 (log 9). -/
def readAhead (s : State) : Nat := if s.busy then Config.freeReadPoint s.reads else 0

theorem readPoint_eq (s : State) : s.readPoint = s.ticks (readAhead s) := by
  unfold State.readPoint readAhead
  split <;> rfl

theorem hostRead_data {s : State} {off : BitVec 6} (h : off.toNat ∉ [0x00, 0x04, 0x08]) :
    s.hostRead off = (s.ticks (readAhead s)).dataRead off := by
  simp only [List.mem_cons, List.not_mem_nil, or_false, not_or] at h
  rw [State.hostRead, if_neg h.1, if_neg h.2.1, if_neg h.2.2, readPoint_eq]

theorem dataRead_buf (s : State) {off : BitVec 6} {i : Fin 9} (h : off.toNat = 0x20 + i.val) :
    s.dataRead off = wordOfByte s.buf[i] := by
  have hi := i.isLt
  rw [State.dataRead, if_neg (by omega), if_neg (by omega), if_pos (by omega), h, Nat.add_sub_cancel_left,
    Vector.getElem?_eq_getElem hi]
  rfl

theorem dataRead_rom (s : State) {off : BitVec 6} {i : Fin 8} (h : off.toNat = 0x30 + i.val) :
    s.dataRead off = wordOfByte s.rom[i] := by
  have hi := i.isLt
  rw [State.dataRead, if_neg (by omega), if_neg (by omega), if_neg (by omega), if_pos (by omega), h,
    Nat.add_sub_cancel_left, Vector.getElem?_eq_getElem hi]
  rfl

theorem dataRead_unlisted (s : State) {off : BitVec 6} (h : off.toNat ∉ [0x00, 0x04, 0x08, 0x0C, 0x10])
    (hbuf : off.toNat < 0x20 ∨ 0x28 < off.toNat) (hrom : off.toNat < 0x30 ∨ 0x37 < off.toNat) :
    s.dataRead off = 0 := by
  simp only [List.mem_cons, List.not_mem_nil, or_false, not_or] at h
  rw [State.dataRead, if_neg (by omega), if_neg (by omega), if_neg (by omega), if_neg (by omega)]

theorem wordOfByte_toNat (x : Byte) : (wordOfByte x).toNat = x.toNat := by
  have hx := x.isLt
  simp [wordOfByte]; omega

/-- Settles O6: the control registers as they stand, the data registers at the read point. -/
theorem hostReadsFollowRegisterMap : Obligations.HostReadsFollowRegisterMap := by
  intro s off rest h u
  have hdata (hoff : off.toNat ∉ [0x00, 0x04, 0x08]) := hostRead_data (s := u) hoff
  refine ⟨u.hostRead off, readAhead u, step_of_agenda_cons h, fun hb => if_neg (by simp [u, hb]), ?cmd, ?status, ?result,
    ?rval, ?crcreg, fun i hoff => ?buf, fun i hoff => ?rom, fun hoff hbuf hrom => ?unlisted⟩
  case cmd => rintro rfl; rfl
  case status => rintro rfl; exact statusWord_toNat u
  case result => rintro rfl; exact resultWord_eq u
  case rval => rintro rfl; exact hdata (by decide)
  case crcreg => rintro rfl; rw [hdata (by decide)]; exact wordOfByte_toNat _
  case buf => rw [hdata (by simp; omega), dataRead_buf _ hoff, wordOfByte_toNat]
  case rom => rw [hdata (by simp; omega), dataRead_rom _ hoff, wordOfByte_toNat]
  case unlisted =>
    rw [hdata fun hmem => hoff (List.mem_append_left [0x0C, 0x10] hmem), dataRead_unlisted _ hoff hbuf hrom]

end Sys2Proof.Proofs

/-! What an operation can do at all (10_state.md R21 to R27; 30_encoding.md R96; 42_transactions.md R168): checks on the
statements that may still run, which every tick keeps. -/

namespace Sys2Proof.Proofs

open Sys2Proof Sys2Proof.Machine Sys2Proof.Claims

/-! ### A check on every statement of a sequence -/

theorem all_repeatSeq (f : Stmt → Bool) (n : Nat) (body : List Stmt) :
    (repeatSeq n body).all f = (n == 0 || body.all f) := by
  cases n <;> simp [repeatSeq]

/-- The check passes the statements that only move bits and counters, and takes the steps of a CRC evaluation like its
start. -/
structure Neutral (f : Stmt → Bool) : Prop where
  writeBit (b : Bool) : f (.writeBit b) = true
  load (x : Byte) : f (.load x) = true
  loadBuf : f .loadBuf = true
  sendBit : f .sendBit = true
  recvBit : f .recvBit = true
  touchBit : f .touchBit = true
  startBlock : f .startBlock = true
  nextByte : f .nextByte = true
  ret (v : RetVal) : f (.ret v) = true
  crcBit (src : CrcSource) (k i : Nat) : f (.crcBit src k i) = f .crcInit

section AllStatements

variable {f : Stmt → Bool} (hf : Neutral f)
include hf

theorem all_writeByteSeq (x : Byte) : (writeByteSeq x).all f = true := by simp [writeByteSeq, hf.load, hf.sendBit]

theorem all_readByteSeq : readByteSeq.all f = true := by simp [readByteSeq, hf.load, hf.recvBit]

theorem all_touchByteSeq (x : Byte) : (touchByteSeq x).all f = true := by simp [touchByteSeq, hf.load, hf.touchBit]

theorem all_receivePageSeq : receivePageSeq.all f = f .storeBuf := by
  rw [receivePageSeq, List.all_cons, all_repeatSeq, List.all_append, all_readByteSeq hf]
  simp [hf.startBlock]

theorem all_receiveRomSeq : receiveRomSeq.all f = f .storeRom := by
  rw [receiveRomSeq, List.all_cons, all_repeatSeq, List.all_append, all_readByteSeq hf]
  simp [hf.startBlock]

theorem all_sendPageSeq : sendPageSeq.all f = true := by
  rw [sendPageSeq, List.all_cons, all_repeatSeq]
  simp [writeBufSeq, hf.startBlock, hf.loadBuf, hf.sendBit, hf.nextByte]

theorem all_touchBlockSeq (n : Nat) : (touchBlockSeq n).all f = (n == 0 || f .storeBuf) := by
  rw [touchBlockSeq, List.all_cons, all_repeatSeq]
  simp [hf.startBlock, hf.loadBuf, hf.touchBit]

theorem all_crcSeq (src : CrcSource) (n : Nat) : (crcSeq src n).all f = f .crcInit := by
  cases h : f .crcInit <;> simp [crcSeq, hf.crcBit, h]

theorem all_checkBufSeq : checkBufSeq.all f = (f .crcInit && f .checkBuf) := by
  simp [checkBufSeq, all_crcSeq hf]

theorem all_checkRomSeq : checkRomSeq.all f = (f .crcInit && f .checkRom) := by
  simp [checkRomSeq, all_crcSeq hf]

theorem all_functionFrame (command : Byte) : (functionFrame command).all f = f .reset := by
  simp [functionFrame, all_writeByteSeq hf]

theorem all_pageFrame (command page : Byte) : (pageFrame command page).all f = f .reset := by
  simp [pageFrame, all_functionFrame hf, all_writeByteSeq hf]

theorem all_startConversion (q : Poll) : (startConversion q).all f = f .reset := by
  cases q <;> exact all_functionFrame hf _

theorem all_romRead (c : Bool) :
    (romRead c).all f = (f .reset && f .storeRom && (!c || f .crcInit && f .checkRom)) := by
  cases c <;> simp [romRead, all_writeByteSeq hf, all_receiveRomSeq hf, all_checkRomSeq hf, Bool.and_assoc]

theorem all_pageRead (p : Byte) : (pageRead p).all f = (f (.param (legalPage p)) && f .reset && f .storeBuf) := by
  simp [pageRead, all_pageFrame hf, all_receivePageSeq hf, Bool.and_assoc]

theorem all_pageWrite (p : Byte) : (pageWrite p).all f = (f (.param (legalPage p)) && f .reset) := by
  simp [pageWrite, all_pageFrame hf, all_sendPageSeq hf]

theorem all_pageReadChecked (p : Byte) (c : Bool) : (pageReadChecked p c).all f =
    (f (.param (legalPage p)) && f .reset && f .storeBuf && (!c || f .crcInit && f .checkBuf)) := by
  cases c <;> simp [pageReadChecked, all_pageRead hf, all_checkBufSeq hf, Bool.and_assoc]

theorem all_hasData (q : Poll) (c : Bool) : (hasData q c).all f =
    (f (.param true) && f .reset && f .storeBuf && (!c || f .crcInit && f .checkBuf) && f (.failIfBusy q)) := by
  simp [hasData, all_pageReadChecked hf]

theorem all_finalRead (q : Poll) (c : Bool) : (finalRead q c).all f =
    (f (.param true) && f .reset && f .storeBuf && (!c || f .crcInit && f .checkBuf)) := by
  simp [finalRead, all_pageReadChecked hf, hf.ret]

theorem all_setStatusBit (b : StatusBit) (v : Bool) : (setStatusBit b v).all f =
    (f (.param true) && f .reset && f .storeBuf && f (.setStatus b v)) := by
  simp [setStatusBit, all_pageRead hf, all_pageWrite hf, Bool.and_assoc]
  grind

theorem all_thresholdRest (iad : Bool) (v : Byte) : (thresholdRest iad v).all f =
    (f (.param true) && f .reset && f (.setThreshold v) && (!iad || f .storeBuf && f (.setStatus .iad false))) := by
  cases iad <;> simp [thresholdRest, thresholdTail, all_setStatusBit hf, all_pageWrite hf, Bool.and_assoc]
  all_goals grind

end AllStatements

/-- What a check says of a checked page read. -/
def pageReadCheck (f : Stmt → Bool) (c : Bool) : Bool :=
  f (.param true) && f .reset && f .storeBuf && (!c || f .crcInit && f .checkBuf)

/-- What a check says of a status-bit toggle. -/
def setStatusCheck (f : Stmt → Bool) (b : StatusBit) (v : Bool) : Bool :=
  f (.param true) && f .reset && f .storeBuf && f (.setStatus b v)

/-- What a check says of an operation's statements, but for those it passes in any operation. -/
def sequenceCheck (f : Stmt → Bool) : Instr → Bool
  | .crc8Compute n => f (.param (legalLen n)) && f .crcInit
  | .crc8Check _ n => f (.param (legalLen n)) && f .crcInit
  | .writeBit v => f (.param (legalBit v))
  | .touchBlock n => f (.param (legalLen n)) && (n.toNat == 0 || f .storeBuf)
  | .reset => f .reset
  | .devicePresent => f .reset
  | .readRom c => f .reset && f .storeRom && (!c || f .crcInit && f .checkRom)
  | .readSerialNumber c => f .reset && f .storeRom && (!c || f .crcInit && f .checkRom)
  | .startVoltageConversion => f .reset
  | .startTemperatureConversion => f .reset
  | .readPage p => f (.param (legalPage p)) && f .reset && f .storeBuf
  | .writePage p => f (.param (legalPage p)) && f .reset
  | .hasVoltageData c => pageReadCheck f c && f (.failIfBusy .voltage)
  | .hasTemperatureData c => pageReadCheck f c && f (.failIfBusy .temperature)
  | .readVoltage c => f .reset && f (.pollLoop .voltage c)
  | .readTemperature c => f .reset && f (.pollLoop .temperature c)
  | .copyInProgress => f (.param true) && f .reset && f .storeBuf
  | .readThreshold c => pageReadCheck f c
  | .getIca c => pageReadCheck f c
  | .getCapacity c => pageReadCheck f c
  | .selectInputSource v c => f (.param (legalSource v)) && pageReadCheck f c && f (.setStatus .ad (v.getLsbD 0))
  | .enableIad => setStatusCheck f .iad true
  | .disableIad => setStatusCheck f .iad false
  | .enableCa => setStatusCheck f .ca true
  | .disableCa => setStatusCheck f .ca false
  | .enableShadowEe => setStatusCheck f .ee true
  | .disableShadowEe => setStatusCheck f .ee false
  | .writeThreshold v =>
    f (.param (legalThreshold v)) && (f (.param true) && f .reset && f .storeBuf) && f (.pauseIad v)
  | .readBit | .writeByte _ | .readByte | .touchByte _ => true
  | .decodeTemperature | .decodeVoltage | .decodeCurrent | .decodeCapacity => true

theorem all_sequenceOf {f : Stmt → Bool} (hf : Neutral f) (i : Instr) :
    (sequenceOf i).all f = sequenceCheck f i := by
  have hret (k : List Stmt) (v : RetVal) : (k ++ [Stmt.ret v]).all f = k.all f := by simp [hf.ret]
  have hsingle (m : Stmt) : [m].all f = f m := Bool.and_true _
  cases i with
  | crc8Compute n => exact congrArg _ ((hret _ _).trans (all_crcSeq hf _ _))
  | crc8Check e n => exact congrArg _ ((hret _ _).trans (all_crcSeq hf _ _))
  | reset => exact hret [.reset] .one |>.trans (hsingle _)
  | devicePresent => exact hret [.reset] .one |>.trans (hsingle _)
  | writeBit v => simp [sequenceOf, sequenceCheck, seqWriteBit, hf.writeBit]
  | readBit => simp [sequenceOf, sequenceCheck, seqReadBit, hf.load, hf.recvBit, hf.ret]
  | writeByte x => exact all_writeByteSeq hf x
  | readByte => exact (hret _ _).trans (all_readByteSeq hf)
  | touchByte x => exact (hret _ _).trans (all_touchByteSeq hf x)
  | touchBlock n => exact congrArg _ (all_touchBlockSeq hf _)
  | readRom c => exact all_romRead hf c
  | readSerialNumber c => exact all_romRead hf c
  | startVoltageConversion => exact all_startConversion hf .voltage
  | startTemperatureConversion => exact all_startConversion hf .temperature
  | readPage p => exact all_pageRead hf p
  | writePage p => exact all_pageWrite hf p
  | hasVoltageData c => exact all_hasData hf .voltage c
  | hasTemperatureData c => exact all_hasData hf .temperature c
  | readVoltage c =>
    exact List.all_append.trans (congrArg₂ _ (all_startConversion hf .voltage) (hsingle _))
  | readTemperature c =>
    exact List.all_append.trans (congrArg₂ _ (all_startConversion hf .temperature) (hsingle _))
  | copyInProgress => exact (hret _ _).trans (all_pageRead hf 0)
  | readThreshold c => exact (hret _ _).trans (all_pageReadChecked hf 0 c)
  | getIca c => exact (hret _ _).trans (all_pageReadChecked hf 1 c)
  | getCapacity c => exact (hret _ _).trans (all_pageReadChecked hf 1 c)
  | selectInputSource v c =>
    simp [sequenceOf, sequenceCheck, seqSelectInputSource, pageReadCheck, all_pageReadChecked hf, all_pageWrite hf]
    grind
  | enableIad | disableIad | enableCa | disableCa | enableShadowEe | disableShadowEe => exact all_setStatusBit hf _ _
  | writeThreshold v =>
    simp [sequenceOf, sequenceCheck, seqWriteThreshold, all_pageRead hf, Bool.and_assoc]
  | decodeTemperature | decodeVoltage | decodeCurrent | decodeCapacity => exact (hsingle _).trans (hf.ret _)

/-! ### The statements that may still run -/

/-- `f` holds of the statements that this one can go on with in place of the rest; where it is the readiness loop, `g`
holds of it and of the statements of a poll. -/
def continuesInto (f g : Stmt → Bool) : Stmt → Bool
  | .pauseIad v => (thresholdRest true v).all f
  | .pollLoop q c => (finalRead q c).all f && g (.pollLoop q c) && (hasData q c).all g
  | _ => true

/-- `f` holds of every statement that may still run outside the readiness loop, and `g` of every one inside it and of the
loop itself. -/
def aheadAll (f g : Stmt → Bool) : Seq → Bool
  | .idle => true
  | .issued => true
  | .running k => k.all f && k.all (continuesInto f g)
  | .polling q c k => k.all g && continuesInto f g (.pollLoop q c)

theorem continuesInto_neutral (f g : Stmt → Bool) : Neutral (continuesInto f g) := by constructor <;> intros <;> rfl

/-- What runs in place of the rest neither branches nor enters the loop. -/
theorem aheadAll_thresholdRest {f g : Stmt → Bool} {v : Byte} (h : (thresholdRest true v).all f = true) (iad : Bool) :
    aheadAll f g (.running (thresholdRest iad v)) = true := by
  have hplain : (thresholdRest iad v).all (continuesInto f g) = true := by
    rw [all_thresholdRest (continuesInto_neutral f g)]; simp [continuesInto]
  have htail : (thresholdTail v).all f = true := by
    rw [thresholdRest, List.all_append, Bool.and_eq_true] at h
    exact h.2
  rw [aheadAll, hplain, Bool.and_true]
  cases iad with
  | true => exact h
  | false => exact htail

theorem aheadAll_finalRead {f g : Stmt → Bool} {q : Poll} {c : Bool} (h : (finalRead q c).all f = true) :
    aheadAll f g (.running (finalRead q c)) = true := by
  rw [aheadAll, h, all_finalRead (continuesInto_neutral f g)]; simp [continuesInto]

theorem aheadAll_sequenceOf {f g : Stmt → Bool} (hf : Neutral f) (i : Instr) :
    aheadAll f g (.running (sequenceOf i)) = (sequenceCheck f i && sequenceCheck (continuesInto f g) i) := by
  rw [aheadAll, all_sequenceOf hf, all_sequenceOf (continuesInto_neutral f g)]

/-- What may run after a tick may run before it. -/
theorem TickStep.keeps_aheadAll {f g : Stmt → Bool} {s t : State} (h : TickStep s t) (hissued : s.seq ≠ .issued)
    (ha : aheadAll f g s.seq = true) : aheadAll f g t.seq = true := by
  cases h with
  | idle _ => exact ha
  | decoded h _ => exact absurd h hissued
  | reserved _ _ => rfl
  | ended _ => rfl
  | next h _ =>
    simp only [h, aheadAll, List.all_cons, Bool.and_eq_true] at ha ⊢
    exact ⟨ha.1.2, ha.2.2⟩
  | returned _ => rfl
  | failed _ _ => rfl
  | branched h =>
    simp only [h, aheadAll, List.all_cons, Bool.and_eq_true] at ha
    exact aheadAll_thresholdRest ha.2.1 _
  | entered h =>
    simp only [h, aheadAll, List.all_cons, Bool.and_eq_true] at ha ⊢
    obtain ⟨-, hloop, -⟩ := ha
    refine ⟨?_, hloop⟩
    simp only [continuesInto, Bool.and_eq_true] at hloop
    exact hloop.2
  | pollReady h =>
    simp only [h, aheadAll, continuesInto, Bool.and_eq_true] at ha
    exact aheadAll_finalRead ha.2.1.1
  | pollNext h _ =>
    simp only [h, aheadAll, List.all_cons, Bool.and_eq_true] at ha ⊢
    exact ⟨ha.1.2, ha.2⟩
  | pollAgain h _ _ _ =>
    simp only [h, aheadAll, Bool.and_eq_true] at ha ⊢
    obtain ⟨-, hloop⟩ := ha
    refine ⟨?_, hloop⟩
    simp only [continuesInto, Bool.and_eq_true] at hloop
    exact hloop.2
  | timedOut _ _ _ _ => rfl

theorem TickStep.not_issued {s t : State} (h : TickStep s t) (hs : s.seq ≠ .issued) : t.seq ≠ .issued := by
  cases h with
  | idle _ => exact hs
  | _ => nofun

/-- Package of the induction over an operation's ticks: each is a tick of statements that the check allows. -/
theorem TicksTo.induct_ahead {f g : Stmt → Bool} {P : State → Prop} {i : Instr}
    (hcheck : aheadAll f g (.running (sequenceOf i)) = true)
    (hstep : ∀ u v, TickStep u v → u.seq ≠ .issued → aheadAll f g u.seq = true → P u → P v) {s t : State}
    (hseq : s.seq = .running (sequenceOf i)) (h : TicksTo s t) (hs : P s) : P t := by
  have hall : t.seq ≠ .issued ∧ aheadAll f g t.seq = true ∧ P t :=
    h.induct (P := fun u => u.seq ≠ .issued ∧ aheadAll f g u.seq = true ∧ P u)
      (fun u v huv ⟨hissued, ha, hu⟩ => ⟨huv.not_issued hissued, huv.keeps_aheadAll hissued ha, hstep u v huv hissued ha hu⟩)
      ⟨by rw [hseq]; nofun, by rw [hseq]; exact hcheck, hs⟩
  exact hall.2.2

/-! ### Which registers a statement writes -/

/-- The statement writes none of BUF, ROM, CRCREG, PRESENCE and POLLCNT but those whose flag is set. -/
def writesOnly (buf rom crcreg presence pollcnt : Bool) : Stmt → Bool
  | .storeBuf => buf
  | .setStatus _ _ => buf
  | .setThreshold _ => buf
  | .storeRom => rom
  | .crcInit => crcreg
  | .crcBit _ _ _ => crcreg
  | .reset => presence
  | .pollLoop _ _ => pollcnt
  | _ => true

@[simp] theorem touchBit_presence (s : State) : s.touchBit.presence = s.presence := by
  unfold State.touchBit; split <;> simp [State.sendBit, State.recvBit]

@[simp] theorem touchBit_pollcnt (s : State) : s.touchBit.pollcnt = s.pollcnt := by
  unfold State.touchBit; split <;> simp [State.sendBit, State.recvBit]

/-- The only statement that writes PRESENCE (10_state.md R26). -/
theorem doStmt_presence {m : Stmt} (h : m ≠ .reset) (s : State) : (doStmt m s).2.presence = s.presence := by
  cases m with
  | reset => exact absurd rfl h
  | _ => simp [doStmt, State.sendBit, State.recvBit]

/-- The only statement that writes POLLCNT; the loop itself counts (60_exceptions.md R230). -/
theorem doStmt_pollcnt {m : Stmt} (h : ∀ q c, m ≠ .pollLoop q c) (s : State) : (doStmt m s).2.pollcnt = s.pollcnt := by
  cases m with
  | pollLoop q c => exact absurd rfl (h q c)
  | _ => simp [doStmt, State.sendBit, State.recvBit]

/-- The registers whose flag is not set are the same in both states. -/
structure SameBut (buf rom crcreg presence pollcnt : Bool) (s t : State) : Prop where
  buf : buf = false → t.buf = s.buf
  rom : rom = false → t.rom = s.rom
  crcreg : crcreg = false → t.crcreg = s.crcreg
  presence : presence = false → t.presence = s.presence
  pollcnt : pollcnt = false → t.pollcnt = s.pollcnt

section SameBut

variable {b r c' p n : Bool}

theorem SameBut.refl (s : State) : SameBut b r c' p n s s :=
  ⟨fun _ => rfl, fun _ => rfl, fun _ => rfl, fun _ => rfl, fun _ => rfl⟩

theorem SameBut.trans {s t u : State} (h : SameBut b r c' p n s t) (h' : SameBut b r c' p n t u) :
    SameBut b r c' p n s u :=
  ⟨fun hf => (h'.buf hf).trans (h.buf hf), fun hf => (h'.rom hf).trans (h.rom hf),
    fun hf => (h'.crcreg hf).trans (h.crcreg hf), fun hf => (h'.presence hf).trans (h.presence hf),
    fun hf => (h'.pollcnt hf).trans (h.pollcnt hf)⟩

theorem doStmt_sameBut {m : Stmt} (h : writesOnly b r c' p n m = true) (s : State) :
    SameBut b r c' p n s (doStmt m s).2 where
  buf hf := doStmt_buf (by rintro rfl; simp [writesOnly, hf] at h) (by rintro _ _ rfl; simp [writesOnly, hf] at h)
    (by rintro _ rfl; simp [writesOnly, hf] at h) s
  rom hf := doStmt_rom (by rintro rfl; simp [writesOnly, hf] at h) s
  crcreg hf := doStmt_crcreg (by rintro rfl; simp [writesOnly, hf] at h)
    (by rintro _ _ _ rfl; simp [writesOnly, hf] at h) s
  presence hf := doStmt_presence (by rintro rfl; simp [writesOnly, hf] at h) s
  pollcnt hf := doStmt_pollcnt (by rintro _ _ rfl; simp [writesOnly, hf] at h) s

theorem TickStep.sameBut {s t : State} (h : TickStep s t)
    (ha : aheadAll (writesOnly b r c' p n) (writesOnly b r c' p n) s.seq = true) : SameBut b r c' p n s t := by
  have hdo {m : Stmt} {f : Flow} {s' u : State} (hm : doStmt m s = (f, s')) (hw : writesOnly b r c' p n m = true)
      (hu : u = { s' with result := u.result, rval := u.rval, busy := u.busy, done := u.done, seq := u.seq
                          pollcnt := u.pollcnt }) (hn : n = false → u.pollcnt = s'.pollcnt) :
      SameBut b r c' p n s u := by
    have hsame := doStmt_sameBut hw s
    rw [hm] at hsame
    refine hsame.trans ?_
    rw [hu]
    exact ⟨fun _ => rfl, fun _ => rfl, fun _ => rfl, fun _ => rfl, hn⟩
  have hquiet {u : State} (hu : u = { s with
      result := u.result, rval := u.rval, busy := u.busy, done := u.done, seq := u.seq, pollcnt := u.pollcnt })
      (hn : n = false → u.pollcnt = s.pollcnt) : SameBut b r c' p n s u := by
    rw [hu]
    exact ⟨fun _ => rfl, fun _ => rfl, fun _ => rfl, fun _ => rfl, hn⟩
  have hcount {q : Poll} {c : Bool} (hloop : writesOnly b r c' p n (.pollLoop q c) = true) : n = true := hloop
  cases h with
  | next h hm =>
    simp only [h, aheadAll, List.all_cons, Bool.and_eq_true] at ha
    exact hdo hm ha.1.1 rfl fun _ => rfl
  | failed h hm =>
    simp only [h, aheadAll, List.all_cons, Bool.and_eq_true] at ha
    exact hdo hm ha.1.1 rfl fun _ => rfl
  | entered h =>
    simp only [h, aheadAll, List.all_cons, Bool.and_eq_true] at ha
    exact hquiet rfl fun hn => by simp [hcount ha.1.1] at hn
  | pollReady h =>
    simp only [h, aheadAll, continuesInto, Bool.and_eq_true] at ha
    exact hquiet rfl fun hn => by simp [hcount ha.2.1.2] at hn
  | pollNext h hm =>
    simp only [h, aheadAll, List.all_cons, Bool.and_eq_true] at ha
    exact hdo hm ha.1.1 rfl fun _ => rfl
  | pollAgain h hm _ _ =>
    simp only [h, aheadAll, continuesInto, List.all_cons, Bool.and_eq_true] at ha
    exact hdo hm ha.1.1 rfl fun hn => by simp [hcount ha.2.1.2] at hn
  | timedOut h hm _ _ =>
    simp only [h, aheadAll, continuesInto, List.all_cons, Bool.and_eq_true] at ha
    exact hdo hm ha.1.1 rfl fun hn => by simp [hcount ha.2.1.2] at hn
  | _ => exact hquiet rfl fun _ => rfl

end SameBut

/-- The check `writesOnly` with the flags of 10_state.md R21 to R26 for the operation. -/
def writesOnlyAs (i : Instr) : Stmt → Bool :=
  writesOnly (writesBuf i) (writesRom i) (evaluatesCrc i) (runsReset i) (countsPolls i)

theorem writesOnly_neutral (b r c p n : Bool) : Neutral (writesOnly b r c p n) := by constructor <;> intros <;> rfl

/-- Each operation's statements write only the registers that the rules list for it. -/
theorem sequenceOf_writesOnly (i : Instr) :
    aheadAll (writesOnlyAs i) (writesOnlyAs i) (.running (sequenceOf i)) = true := by
  have hneutral : Neutral (writesOnlyAs i) := writesOnly_neutral _ _ _ _ _
  rw [aheadAll_sequenceOf hneutral]
  cases i <;> simp only [sequenceCheck, pageReadCheck, setStatusCheck, continuesInto, all_thresholdRest hneutral,
    all_finalRead hneutral, all_hasData hneutral] <;> simp [writesOnlyAs, writesOnly, writesBuf, writesRom, evaluatesCrc,
    runsReset, countsPolls, isTransaction, encode]

theorem sameBut_of_reaches {i : Instr} {s t : State} (h : reaches i s t) :
    SameBut (writesBuf i) (writesRom i) (evaluatesCrc i) (runsReset i) (countsPolls i) s t := by
  obtain ⟨-, rfl⟩ | hto := ticksTo_of_reaches h
  · exact .refl t
  · exact hto.induct_ahead (P := SameBut _ _ _ _ _ s) (sequenceOf_writesOnly i)
      (fun u v huv _ ha hu => hu.trans (huv.sameBut ha)) rfl
      ⟨fun _ => rfl, fun _ => rfl, fun _ => rfl, fun _ => rfl, fun _ => rfl⟩

theorem emits_of_reaches {i : Instr} {s t : State} (h : reaches i s t) : ∃ es, Emits s t es := by
  obtain ⟨-, rfl⟩ | hto := ticksTo_of_reaches h
  · exact ⟨[], .refl t⟩
  · obtain ⟨es, hes⟩ := hto.emits
    exact ⟨es, Emits.trans (a := []) (.of_slots (.none rfl) rfl) hes⟩

/-- What a completion writes stays until the completion. -/
theorem control_of_reaches {i : Instr} {s t : State} (h : reaches i s t) (ht : t.seq ≠ .idle) :
    t.result = s.result ∧ t.rval = s.rval ∧ t.done = s.done ∧ t.busy = s.busy := by
  obtain ⟨-, rfl⟩ | hto := ticksTo_of_reaches h
  · exact ⟨rfl, rfl, rfl, rfl⟩
  · refine hto.induct (P := fun u => u.seq ≠ .idle →
      u.result = s.result ∧ u.rval = s.rval ∧ u.done = s.done ∧ u.busy = s.busy) (fun u v huv hu hv => ?_)
      (fun _ => ⟨rfl, rfl, rfl, rfl⟩) ht
    obtain ⟨-, rfl⟩ | ⟨hrun, -, hresult, hrval, hbusy, hdone⟩ | ⟨-, hidle, -, -⟩ := huv.control
    · exact hu hv
    · obtain ⟨hresult', hrval', hdone', hbusy'⟩ := hu hrun
      exact ⟨hresult.trans hresult', hrval.trans hrval', hdone.trans hdone', hbusy.trans hbusy'⟩
    · exact absurd hidle hv

/-- Settles O53: the check for the registers with writers, the slots' effect for the others, and `TickStep.control` for
what a completion writes. -/
theorem registersChangeOnlyByTheirWriters : Obligations.RegistersChangeOnlyByTheirWriters := by
  intro i s t h
  have hsame := sameBut_of_reaches h
  obtain ⟨es, hes⟩ := emits_of_reaches h
  exact ⟨hsame.buf, hsame.rom, hsame.crcreg, hsame.presence, hsame.pollcnt, hes.cmd, hes.cfg, hes.samples, hes.agenda,
    hes.readData, hes.reads, fun _ _ ht => control_of_reaches h ht⟩

/-! ### Result codes -/

/-- The codes that a statement can fail with. -/
def failures : Stmt → List ResultCode
  | .param legal => if legal then [] else [.badParam]
  | .reset => [.deviceNotFound]
  | .checkBuf => [.crcFail]
  | .checkRom => [.crcFail]
  | .failIfBusy _ => [.error]
  | _ => []

theorem mem_failures_of_fail {m : Stmt} {s s' : State} {c : ResultCode} (h : doStmt m s = (.fail c, s')) :
    c ∈ failures m := by
  cases m with
  | param legal => cases legal <;> simp_all [doStmt, failures]
  | reset => rcases Level.low_or_high (s.level 0) with hl | hl <;> simp_all [doStmt, failures]
  | checkBuf => by_cases hc : s.crcreg = s.buf[8] <;> simp_all [doStmt, failures]
  | checkRom => by_cases hc : s.crcreg = s.rom[7] <;> simp_all [doStmt, failures]
  | failIfBusy q =>
    cases hb : s.buf[0].getLsbD q.busyBit <;> simp_all [-BitVec.getLsbD_eq_getElem, doStmt, failures]
  | _ => simp [doStmt] at h

theorem timeout_not_mem_failures (m : Stmt) : .timeout ∉ failures m := by
  cases m with
  | param legal => cases legal <;> simp [failures]
  | _ => simp [failures]

/-- The statement fails with listed codes only. -/
def failsWithin (cs : List ResultCode) (m : Stmt) : Bool := (failures m).all cs.contains

/-- The readiness loop, whose bound ends it with Timeout, is entered only where Timeout is listed; inside it no failure
is a result. -/
def loopsWithin (cs : List ResultCode) : Stmt → Bool
  | .pollLoop _ _ => cs.contains .timeout
  | _ => true

theorem failsWithin_neutral (cs : List ResultCode) : Neutral (failsWithin cs) := by constructor <;> intros <;> rfl

theorem loopsWithin_neutral (cs : List ResultCode) : Neutral (loopsWithin cs) := by constructor <;> intros <;> rfl

/-- Each operation with legal operands fails only with codes that the table lists for it. -/
theorem sequenceOf_failsWithin {i : Instr} (h : i.wellFormed = true) :
    aheadAll (failsWithin (codes i)) (loopsWithin (codes i)) (.running (sequenceOf i)) = true := by
  have hf := failsWithin_neutral (codes i)
  rw [aheadAll_sequenceOf hf]
  cases i <;> simp only [sequenceCheck, pageReadCheck, setStatusCheck, continuesInto, all_thresholdRest hf,
    all_finalRead hf, all_hasData (loopsWithin_neutral _)] <;>
    simp_all [failsWithin, failures, loopsWithin, codes, Instr.wellFormed]

/-- What a completed operation shows, given the codes it may report and its bound on the polls. -/
structure EndsWithin (cs : List ResultCode) (limit : Word) (t : State) : Prop where
  code : t.result ∈ cs
  timeout : t.result = .timeout → limit ≠ 0
  rval : t.result ≠ .ok → t.rval = 0
  busy : t.busy = false
  done : t.done = true

theorem endsWithin_ok {cs : List ResultCode} (h : .ok ∈ cs) (limit : Word) (s : State) (v : Word) :
    EndsWithin cs limit (s.complete .ok v) := ⟨h, nofun, fun hne => absurd rfl hne, rfl, rfl⟩

theorem endsWithin_fail {cs : List ResultCode} {c : ResultCode} (h : c ∈ cs) {limit : Word}
    (ht : c = .timeout → limit ≠ 0) (s : State) : EndsWithin cs limit (s.fail c) := ⟨h, ht, fun _ => rfl, rfl, rfl⟩

theorem TickStep.endsWithin {cs : List ResultCode} {s t : State} (h : TickStep s t) (hok : .ok ∈ cs)
    (hissued : s.seq ≠ .issued) (ha : aheadAll (failsWithin cs) (loopsWithin cs) s.seq = true)
    (hs : s.seq = .idle → EndsWithin cs s.cfg.pollLimit s) (ht : t.seq = .idle) : EndsWithin cs s.cfg.pollLimit t := by
  cases h with
  | idle h => exact hs h
  | decoded h _ => exact absurd h hissued
  | reserved h _ => exact absurd h hissued
  | ended _ => exact endsWithin_ok hok _ _ _
  | returned _ => exact endsWithin_ok hok _ _ _
  | failed h hm =>
    simp only [h, aheadAll, List.all_cons, Bool.and_eq_true] at ha
    have hmem := List.all_eq_true.mp ha.1.1 _ (mem_failures_of_fail hm)
    refine endsWithin_fail (by simpa using hmem) ?_ _
    rintro rfl
    exact absurd (mem_failures_of_fail hm) (timeout_not_mem_failures _)
  | timedOut h hm _ hb =>
    simp only [h, aheadAll, continuesInto, Bool.and_eq_true] at ha
    obtain ⟨es, hes, -⟩ := doStmt_effect_of_eq hm
    refine endsWithin_fail (by simpa [loopsWithin] using ha.2.1.2) (fun _ hzero => ?_) _
    have hpos := hb.1
    rw [hes.cfg, hzero] at hpos
    exact absurd hpos (by decide)
  | _ => cases ht

theorem ok_mem_codes (i : Instr) : .ok ∈ codes i := by cases i <;> simp [codes]

/-- Settles O52: no statement fails with a code that the table does not list, and Timeout comes from the bound alone. -/
theorem resultCodesAsTabled : Obligations.ResultCodesAsTabled := by
  intro i s t hw h ht
  have hend : EndsWithin (codes i) s.cfg.pollLimit t := by
    obtain ⟨hseq, rfl⟩ | hto := ticksTo_of_reaches h
    · rw [hseq] at ht; cases ht
    · refine (hto.induct_ahead
        (P := fun u => u.cfg = s.cfg ∧ (u.seq = .idle → EndsWithin (codes i) s.cfg.pollLimit u))
        (sequenceOf_failsWithin hw) (fun u v huv hissued ha ⟨hcfg, hu⟩ => ?_) rfl ⟨rfl, nofun⟩).2 ht
      obtain ⟨es, hes, -⟩ := huv.emits
      rw [← hcfg] at hu ⊢
      exact ⟨hes.cfg, huv.endsWithin (ok_mem_codes i) hissued ha hu⟩
  exact ⟨hend.code, hend.timeout, hend.rval, hend.busy, hend.done⟩

/-! ### Writes come after presence (42_transactions.md R168 (c)) -/

/-- Nothing but parameter checks stands before the first `Reset()`. -/
def opensWithReset : List Stmt → Bool
  | [] => true
  | .param _ :: k => opensWithReset k
  | .reset :: _ => true
  | _ :: _ => false

/-- The statements of a transaction open with a reset. -/
theorem opensWithReset_of_isTransaction {i : Instr} (h : isTransaction i = true) :
    opensWithReset (sequenceOf i) = true := by
  cases i with
  | crc8Compute _ | crc8Check _ _ | reset | writeBit _ | readBit | writeByte _ | readByte | touchByte _ | touchBlock _
  | decodeTemperature | decodeVoltage | decodeCurrent | decodeCapacity => simp [isTransaction, encode] at h
  | _ => rfl

theorem opensWithReset_hasData (q : Poll) (c : Bool) : opensWithReset (hasData q c) = true := by cases c <;> rfl

theorem opensWithReset_finalRead (q : Poll) (c : Bool) : opensWithReset (finalRead q c) = true := by cases c <;> rfl

theorem writesAfterPresence_append (p : Bool) (a b : List BusEvent) :
    writesAfterPresence p (a ++ b) = (writesAfterPresence p a && writesAfterPresence (presenceIn p a) b) := by
  induction a generalizing p with
  | nil => simp [writesAfterPresence, presenceIn]
  | cons e es ih =>
    cases e with
    | rst l => cases l <;> simp [writesAfterPresence, presenceIn, presenceOf, ih]
    | w b => simp [writesAfterPresence, presenceIn, ih, Bool.and_assoc]
    | r l => simp [writesAfterPresence, presenceIn, ih]

theorem opensWithReset_cons {m : Stmt} {ms : List Stmt} (h : opensWithReset (m :: ms) = true) :
    m = .reset ∨ ∃ legal, m = .param legal ∧ opensWithReset ms = true := by
  cases m with
  | reset => exact .inl rfl
  | param legal => exact .inr ⟨legal, rfl, h⟩
  | _ => cases h

/-- H after one statement that is no reset: at most one other slot. -/
theorem doStmt_bus {m : Stmt} (h : m ≠ .reset) (s : State) :
    ∃ es, (doStmt m s).2.bus = s.bus ++ es ∧ (es = [] ∨ (∃ b, es = [.w b]) ∨ ∃ l, es = [.r l]) := by
  have hquiet : s.bus = s.bus ++ [] := (List.append_nil _).symm
  have hw (b : Bool) := s.writeBit_bus b
  have hr := s.readBit_bus
  cases m with
  | reset => exact absurd rfl h
  | writeBit b => exact ⟨_, hw b, .inr (.inl ⟨b, rfl⟩)⟩
  | sendBit => exact ⟨_, hw _, .inr (.inl ⟨_, rfl⟩)⟩
  | recvBit => exact ⟨_, hr, .inr (.inr ⟨_, rfl⟩)⟩
  | touchBit =>
    simp only [doStmt, State.touchBit]
    split
    · exact ⟨_, hr, .inr (.inr ⟨_, rfl⟩)⟩
    · exact ⟨_, hw _, .inr (.inl ⟨_, rfl⟩)⟩
  | _ => exact ⟨[], hquiet, .inl rfl⟩

/-- One statement writes only after presence, where presence was detected or the statements open with a reset; and so may
the next. -/
theorem doStmt_writesAfterPresence {m : Stmt} {ms : List Stmt} {s s' : State} {f : Flow} {es : List BusEvent}
    (hm : doStmt m s = (f, s')) (hes : writesAfterPresence false es = true)
    (hopen : presenceIn false es = true ∨ opensWithReset (m :: ms) = true) :
    ∃ es', s'.bus = s.bus ++ es' ∧ writesAfterPresence false (es ++ es') = true ∧
      (f = .go → presenceIn false (es ++ es') = true ∨ opensWithReset ms = true) := by
  obtain ⟨rfl, rfl⟩ := Prod.ext_iff.mp hm
  simp only [writesAfterPresence_append, presenceIn_append, hes, Bool.true_and]
  by_cases hreset : m = .reset
  · subst hreset
    refine ⟨_, s.resetSlot_bus, ?_⟩
    rcases Level.low_or_high (s.level 0) with h | h <;> simp [doStmt, h, writesAfterPresence, presenceIn, presenceOf]
  · obtain hpresent | hopen := hopen
    · obtain ⟨es', hbus, rfl | ⟨b, rfl⟩ | ⟨l, rfl⟩⟩ := doStmt_bus hreset s <;>
        exact ⟨_, hbus, by simp [writesAfterPresence, hpresent], fun _ => .inl (by simp [presenceIn, hpresent])⟩
    · obtain ⟨legal, rfl, hms⟩ := (opensWithReset_cons hopen).resolve_left hreset
      exact ⟨[], (List.append_nil _).symm, rfl, fun _ => .inr hms⟩

/-- H has grown by slots that write only after presence, and so has what may still run. -/
def WritesGuarded (s t : State) : Prop :=
  ∃ es, t.bus = s.bus ++ es ∧ writesAfterPresence false es = true ∧
    (presenceIn false es = true ∨ opensWithReset t.seq.rest = true)

theorem TickStep.keeps_writesGuarded {s u v : State} (h : TickStep u v) (hissued : u.seq ≠ .issued)
    (hu : WritesGuarded s u) : WritesGuarded s v := by
  obtain ⟨es, hbus, hes, hopen⟩ := hu
  have hdo {m : Stmt} {ms : List Stmt} {f : Flow} {s' w : State} (hrest : u.seq.rest = m :: ms)
      (hm : doStmt m u = (f, s')) (hw : w.bus = s'.bus)
      (hnext : opensWithReset w.seq.rest = true ∨ (f = .go ∧ w.seq.rest = ms)) : WritesGuarded s w := by
    rw [hrest] at hopen
    obtain ⟨es', hbus', hes', hgo⟩ := doStmt_writesAfterPresence hm hes hopen
    refine ⟨es ++ es', by rw [hw, hbus', hbus, List.append_assoc], hes', ?_⟩
    obtain hnext | ⟨hf, hms⟩ := hnext
    · exact .inr hnext
    · rw [hms]; exact hgo hf
  cases h with
  | idle _ => exact ⟨es, hbus, hes, hopen⟩
  | decoded h _ => exact absurd h hissued
  | reserved _ _ => exact ⟨es, hbus, hes, .inr rfl⟩
  | ended _ => exact ⟨es, hbus, hes, .inr rfl⟩
  | next h hm => exact hdo (congrArg Seq.rest h) hm rfl (.inr ⟨rfl, rfl⟩)
  | returned _ => exact ⟨es, hbus, hes, .inr rfl⟩
  | failed h hm => exact hdo (congrArg Seq.rest h) hm rfl (.inl rfl)
  | branched h =>
    rw [h] at hopen
    exact ⟨es, hbus, hes, .inl (hopen.resolve_right nofun)⟩
  | entered _ => exact ⟨es, hbus, hes, .inr (opensWithReset_hasData _ _)⟩
  | pollReady _ => exact ⟨es, hbus, hes, .inr (opensWithReset_finalRead _ _)⟩
  | pollNext h hm => exact hdo (congrArg Seq.rest h) hm rfl (.inr ⟨rfl, rfl⟩)
  | pollAgain h hm _ _ => exact hdo (congrArg Seq.rest h) hm rfl (.inl (opensWithReset_hasData _ _))
  | timedOut h hm _ _ => exact hdo (congrArg Seq.rest h) hm rfl (.inl rfl)

/-- Settles O51: a failed reset ends the sequence or the poll, and what comes then opens with a reset. -/
theorem transactionsWriteOnlyAfterPresence : Obligations.TransactionsWriteOnlyAfterPresence := by
  intro i s t hi h
  have hguarded : WritesGuarded s t := by
    obtain ⟨hseq, rfl⟩ | hto := ticksTo_of_reaches h
    · exact ⟨[], (List.append_nil _).symm, rfl, .inr (by rw [hseq]; rfl)⟩
    · refine (hto.induct (P := fun u => u.seq ≠ .issued ∧ WritesGuarded s u)
        (fun u v huv ⟨hissued, hu⟩ => ⟨huv.not_issued hissued, huv.keeps_writesGuarded hissued hu⟩) ⟨nofun, ?_⟩).2
      exact ⟨[], (List.append_nil _).symm, rfl, .inr (opensWithReset_of_isTransaction hi)⟩
  obtain ⟨es, hbus, hes, -⟩ := hguarded
  exact ⟨es, hbus, hes⟩

end Sys2Proof.Proofs

/-! The algebra of the CRC (40_crc8.md R125): a bit step is linear in the register and the input bit together, and
one to one in the register. -/

namespace Sys2Proof.Proofs

open Sys2Proof Sys2Proof.Machine Sys2Proof.Claims

/-! ### Linearity -/

/-- What the feedback bit adds to the shifted register (40_crc8.md R120). -/
def feedbackMask (fb : Bool) : Byte := if fb then 0x8C#8 else 0

theorem feedbackMask_xor (a b : Bool) : feedbackMask (a ^^ b) = feedbackMask a ^^^ feedbackMask b := by
  revert a b; decide

theorem crcBit_eq_xor (c : Byte) (d : Bool) : crcBit c d = (c >>> 1) ^^^ feedbackMask (c.getLsbD 0 ^^ d) := by
  unfold crcBit feedbackMask
  cases c.getLsbD 0 ^^ d <;> simp

theorem crcBit_xor (c c' : Byte) (d d' : Bool) : crcBit (c ^^^ c') (d ^^ d') = crcBit c d ^^^ crcBit c' d' := by
  have hfb : ((c ^^^ c').getLsbD 0 ^^ (d ^^ d')) = ((c.getLsbD 0 ^^ d) ^^ (c'.getLsbD 0 ^^ d')) := by
    rw [BitVec.getLsbD_xor, Bool.xor_assoc, Bool.xor_left_comm (c'.getLsbD 0), ← Bool.xor_assoc]
  rw [crcBit_eq_xor, crcBit_eq_xor, crcBit_eq_xor, hfb, feedbackMask_xor, BitVec.ushiftRight_xor_distrib]
  ac_rfl

theorem crcByte_xor (c c' x x' : Byte) : crcByte (c ^^^ c') (x ^^^ x') = crcByte c x ^^^ crcByte c' x' := by
  simp only [crcByte, BitVec.getLsbD_xor, crcBit_xor]

theorem crcFrom_xor (c c' : Byte) {xs ys : List Byte} (h : xs.length = ys.length) :
    crcFrom (c ^^^ c') (List.zipWith (fun x y => x ^^^ y) xs ys) = crcFrom c xs ^^^ crcFrom c' ys := by
  induction xs generalizing c c' ys with
  | nil =>
    cases ys with
    | nil => rfl
    | cons y ys => simp at h
  | cons x xs ih =>
    cases ys with
    | nil => simp at h
    | cons y ys =>
      rw [List.zipWith_cons_cons, crcFrom, crcByte_xor]
      exact ih _ _ (Nat.succ.inj h)

/-- Settles O19: the start value 0 is 0 ^^^ 0. -/
theorem crcIsLinear : Obligations.CrcIsLinear := fun _ _ h => crcFrom_xor 0 0 h

/-! ### Zeros and self-checked data -/

/-- The input bit that the register's bit 0 already is shifts out with it. -/
theorem crcBit_shifted (c : Byte) (i : Nat) : crcBit (c >>> i) (c.getLsbD i) = c >>> (i + 1) := by
  rw [crcBit_eq_xor, BitVec.getLsbD_ushiftRight, Nat.add_zero, Bool.xor_self, ← BitVec.shiftRight_add]
  exact BitVec.xor_zero

theorem crcByte_self (c : Byte) : crcByte c c = 0 := by
  have hfirst : crcBit c (c.getLsbD 0) = c >>> 1 := crcBit_shifted c 0
  rw [crcByte, hfirst]
  simp only [crcBit_shifted, Nat.reduceAdd]
  exact BitVec.ushiftRight_eq_zero (Nat.le_refl 8)

theorem crcFrom_replicate_zero (n : Nat) : crcFrom 0 (List.replicate n 0) = 0 := by
  induction n with
  | zero => rfl
  | succ n ih => exact ih

/-- Settles O18: a zero byte keeps the register 0, and the register's own value as input clears it. -/
theorem crcOfZerosAndOfSelfCheckedDataIsZero : Obligations.CrcOfZerosAndOfSelfCheckedDataIsZero := by
  refine ⟨crcFrom_replicate_zero, fun data => ?_⟩
  rw [crc8, crcFrom_append]
  exact crcByte_self _

/-! ### A flipped bit -/

theorem eq_zero_of_crcBit_false : ∀ c : Byte, crcBit c false = 0 → c = 0 := by decide

/-- A byte step maps only 0 to 0 when the input byte is 0. -/
theorem eq_zero_of_crcByte_zero {c : Byte} (h : crcByte c 0 = 0) : c = 0 := by
  rw [crcByte] at h
  iterate 7 replace h := eq_zero_of_crcBit_false _ h
  exact eq_zero_of_crcBit_false c h

theorem crcFrom_injective (ys : List Byte) : Function.Injective fun c => crcFrom c ys := by
  induction ys with
  | nil => exact fun _ _ h => h
  | cons y ys ih =>
    intro c c' h
    have hbyte : crcByte c y = crcByte c' y := ih h
    have hdiff : crcByte (c ^^^ c') (y ^^^ y) = 0 := by rw [crcByte_xor, hbyte]; exact BitVec.xor_self
    rw [BitVec.xor_self] at hdiff
    exact BitVec.xor_eq_zero_iff.mp (eq_zero_of_crcByte_zero hdiff)

theorem crcByte_of_one_bit : ∀ j < 8, crcByte 0 (1#8 <<< j) ≠ 0 := by decide

theorem crcByte_flip (c x : Byte) {j : Nat} (hj : j < 8) : crcByte c (x ^^^ (1#8 <<< j)) ≠ crcByte c x := by
  intro h
  have hflip : crcByte c (x ^^^ (1#8 <<< j)) = crcByte c x ^^^ crcByte 0 (1#8 <<< j) := by
    rw [← crcByte_xor]; exact congrArg (crcByte · _) BitVec.xor_zero.symm
  rw [hflip] at h
  exact crcByte_of_one_bit j hj (by simpa using h)

/-- Settles O20: the register differs after the flipped byte, and every later byte step keeps the difference. -/
theorem singleBitFlipChangesCrc : Obligations.SingleBitFlipChangesCrc := by
  intro xs ys x j hj h
  simp only [crc8, crcFrom_append] at h
  exact crcByte_flip (crcFrom 0 xs) x hj (crcFrom_injective ys h)

/-! ### `crc8_compute` and `crc8_check` -/

theorem runSeq_crcOverBuf {n : BitVec 4} (hn : n.toNat ≤ 9) (s : State) :
    runSeq (.param (legalLen n) :: crcSeq .buf n.toNat) s = (.go, s.evalCrcBuf n.toNat) := by
  have hlegal : legalLen n = true := decide_eq_true hn
  rw [hlegal, runSeq_param_true, ← List.append_nil (crcSeq .buf n.toNat), runSeq_crcSeq_buf hn]
  rfl

theorem runOp_param_of_illegal {legal : Bool} (h : legal = false) (k : List Stmt) (s : State) :
    runOp (.param legal :: k) s = badParam s := by
  rw [h]
  exact runOp_of_fail (runSeq_param_false k s)

theorem legalLen_eq_false {n : BitVec 4} (hn : 9 < n.toNat) : legalLen n = false :=
  decide_eq_false (Nat.not_le.mpr hn)

/-- Settles O14: the evaluation in closed form, then the returned CRC. -/
theorem crc8ComputeResult : Obligations.Crc8ComputeResult := by
  refine fun n s => ⟨by simp [encode, toNat_commandWord], fun hn => ?_, fun hn => ?_⟩
  · exact congrArg Host.Outcome.next (runOp_append_ret (runSeq_crcOverBuf hn s) .crc)
  · exact congrArg Host.Outcome.next (runOp_param_of_illegal (legalLen_eq_false hn) _ s)

/-- Settles O15: the same evaluation, then the comparison. -/
theorem crc8CheckResult : Obligations.Crc8CheckResult := by
  refine fun e n s => ⟨by simp [encode, toNat_commandWord], fun hn => ?_, fun hn => ?_⟩
  · have hrun := runOp_append_ret (runSeq_crcOverBuf hn s) (.crcMatches e)
    refine (congrArg Host.Outcome.next hrun).trans ?_
    by_cases h : crc8 (s.buf.toList.take n.toNat) = e <;>
      simp [State.complete, State.evalCrcBuf, RetVal.value, State.bufPrefix, wordOfBool, h]
  · exact congrArg Host.Outcome.next (runOp_param_of_illegal (legalLen_eq_false hn) _ s)

end Sys2Proof.Proofs

/-! Reset and touch (41_transport.md R131, R137, R138; 42_transactions.md R151), and operands outside their legal values
(30_encoding.md R100). -/

namespace Sys2Proof.Proofs

open Sys2Proof Sys2Proof.Machine Sys2Proof.Claims

/-! ### Reset -/

/-- Settles O21: the one slot in closed form, for each sample. -/
theorem resetAndDevicePresentResult : Obligations.ResetAndDevicePresentResult := by
  refine ⟨by decide, by decide, fun s => ⟨fun h => ?low, fun h => ?high, rfl⟩⟩
  case low =>
    have hrun : runSeq [.reset] s = (.go, s.resetSlot) := runSeq_reset_low h []
    refine (congrArg Host.Outcome.next (runOp_append_ret hrun .one)).trans ?_
    rw [State.resetSlot_eq, h]
    rfl
  case high =>
    have hrun : runSeq seqReset s = (.fail .deviceNotFound, s.resetSlot) := runSeq_reset_high h _
    exact congrArg Host.Outcome.next ((runOp_of_fail hrun).trans (fail_resetSlot_of_high h))

/-! ### Touch -/

theorem exec_touchByte (x : Byte) (s : State) :
    exec (.touchByte x) s = .next ((s.touched x).complete .ok (wordOfByte (s.touchResult 0 x))) :=
  congrArg Host.Outcome.next (runOp_append_ret (runSeq_touchByteSeq x s) .shift)

/-- Settles O26: `TouchByte` in closed form, then the returned byte. -/
theorem touchByteResult : Obligations.TouchByteResult := by
  refine fun x s => ⟨by simp [encode, toNat_commandWord], _, s.touchResult 0 x, exec_touchByte x s, ?_, fun i hi => ?_⟩
  · simp [State.complete, State.touched, completed, State.touchEvents, wordOfByte]
  · rw [s.touchResult_bit 0 x hi, Nat.zero_add]

theorem onesBelow_allOnes : ∀ i < 8, onesBelow 0xFF i = i := by decide

theorem onesBelow_le (x : Byte) (i : Nat) : onesBelow x i ≤ i := by
  simpa [onesBelow] using List.countP_le_length (l := List.range i) (p := fun j => x.getLsbD j)

/-- Bytes with the same bits below 8 are equal. -/
theorem byte_ext {x y : Byte} (h : ∀ i < 8, x.getLsbD i = y.getLsbD i) : x = y :=
  BitVec.eq_of_getLsbD_eq h

theorem allOnes_bit : ∀ i < 8, (0xFF : Byte).getLsbD i = true := by decide

/-- Touching 0xFF reads a byte. -/
theorem touched_allOnes (s : State) : s.touched 0xFF = s.received := by
  have hbyte : s.touchResult 0 0xFF = s.byteAt 0 := by
    refine byte_ext fun i hi => ?_
    rw [s.touchResult_bit 0 _ hi, s.byteAt_bit 0 hi, onesBelow_allOnes i hi, allOnes_bit i hi, Bool.true_and]
  have hevents : s.touchEvents 0 0xFF = s.readEvents 0 8 := by
    refine List.map_congr_left fun i hi => ?_
    have hi := List.mem_range.mp hi
    rw [if_pos (allOnes_bit i hi), onesBelow_allOnes i hi]
  have hcount : onesBelow 0xFF 8 = 8 := by decide
  simp only [State.touched, State.received, hbyte, hevents, hcount]

theorem touchResult_zero (s : State) : s.touchResult 0 0 = 0 := by
  refine byte_ext fun i hi => ?_
  rw [s.touchResult_bit 0 _ hi, show (0 : Byte).getLsbD i = false from BitVec.getLsbD_zero, Bool.false_and]

/-- Touching 0x00 writes 0x00. -/
theorem touched_zero (s : State) : s.touched 0 = s.wrote 0 := by
  have hcount : onesBelow 0 8 = 0 := by decide
  have hevents : s.touchEvents 0 0 = wb 0 := rfl
  rw [State.touched, State.wrote, touchResult_zero, hcount, hevents]
  rfl

theorem wordOfByte_touchResult_masked (s : State) (x : Byte) :
    wordOfByte (s.touchResult 0 x) &&& ~~~(x.zeroExtend 32) = 0 := by
  apply BitVec.eq_of_getLsbD_eq
  intro i hi
  by_cases h8 : i < 8
  · have hbit := s.touchResult_bit 0 x h8
    simp only [wordOfByte, BitVec.getLsbD_and, BitVec.getLsbD_not, BitVec.truncate_eq_setWidth, BitVec.getLsbD_setWidth,
      hi, hbit]
    cases x.getLsbD i <;> simp
  · simp [-BitVec.getLsbD_eq_getElem, wordOfByte, BitVec.getLsbD_of_ge _ i (Nat.not_lt.mp h8)]

theorem touchResult_of_high {s : State} (h : ∀ k < 8, s.level k = .high) (x : Byte) : s.touchResult 0 x = x := by
  refine byte_ext fun i hi => ?_
  have hhigh : s.level (0 + onesBelow x i) = .high := h _ (by have := onesBelow_le x i; omega)
  rw [s.touchResult_bit 0 x hi, hhigh, decide_eq_true rfl, Bool.and_true]

/-- Settles O27: each consequence from the result bits of R137. -/
theorem touchByteConsequences : Obligations.TouchByteConsequences := by
  refine ⟨fun x s t h => ?masked, fun s => ?ones, fun s => ?zero, fun x s t hhigh h => ?high⟩
  case masked =>
    rw [exec_touchByte, Host.Outcome.next.injEq] at h
    rw [← h]
    exact wordOfByte_touchResult_masked s x
  case ones =>
    have hbyte : s.touchResult 0 0xFF = s.byteAt 0 := congrArg State.shift (touched_allOnes s)
    rw [exec_touchByte, exec_readByte, touched_allOnes, hbyte]
  case zero => rw [exec_touchByte, exec_writeByte, touched_zero, touchResult_zero]; rfl
  case high =>
    rw [exec_touchByte, Host.Outcome.next.injEq] at h
    rw [← h, State.complete_rval, touchResult_of_high hhigh]
    rfl

theorem runSeq_seqTouchBlock {n : BitVec 4} (hn : n.toNat ≤ 9) (s : State) :
    runSeq (seqTouchBlock n) s = (.go, iterateState State.touchedInPlace n.toNat { s with bytecnt := 0 }) := by
  have hlegal : legalLen n = true := decide_eq_true hn
  rw [seqTouchBlock, hlegal, runSeq_param_true, runSeq_touchBlockSeq]

/-- Settles O28: the touched block in closed form from index 0. -/
theorem touchBlockResult : Obligations.TouchBlockResult := by
  refine fun n s => ⟨by simp [encode, toNat_commandWord], fun hn => ?legal, fun hn => ?illegal⟩
  case legal =>
    obtain ⟨hstate, hbuf, hline⟩ := touchedInPlace_iterate n.toNat { s with bytecnt := 0 } (by simpa using hn)
    have hevents := State.touchBlockEvents_of_drawn (s := s) (t := { s with bytecnt := 0 }) (n := 0) rfl rfl 0
    have hresults := State.touchResults_of_drawn (s := s) (t := { s with bytecnt := 0 }) (n := 0) rfl rfl 0
    simp only [show (0 : BitVec 4).toNat = 0 from rfl, List.drop_zero, List.take_zero, List.nil_append,
      Nat.zero_add, hevents, hresults] at hstate hbuf
    refine ⟨_, congrArg Host.Outcome.next (runOp_of_go (runSeq_seqTouchBlock hn s)), ?_, ?_, hline⟩
    · exact congrArg (State.complete · .ok 0) hstate
    · exact hbuf
  case illegal => exact congrArg Host.Outcome.next (runOp_param_of_illegal (legalLen_eq_false hn) _ s)

/-! ### Operands outside their legal values -/

/-- Settles O49: the operand check is the first statement of every operation that has one. -/
theorem illegalOperandIsBadParam : Obligations.IllegalOperandIsBadParam := by
  intro i s h
  rw [exec_eq_runOp]
  refine congrArg Host.Outcome.next ?_
  cases i with
  | crc8Compute n => exact runOp_param_of_illegal h _ s
  | crc8Check e n => exact runOp_param_of_illegal h _ s
  | writeBit v => exact runOp_param_of_illegal h _ s
  | touchBlock n => exact runOp_param_of_illegal h _ s
  | readPage p => exact runOp_param_of_illegal h _ s
  | writePage p => exact runOp_param_of_illegal h _ s
  | selectInputSource v c => exact runOp_param_of_illegal h _ s
  | writeThreshold v => exact runOp_param_of_illegal h _ s
  | _ => exact absurd (show true = false from h) nofun

end Sys2Proof.Proofs

/-! The decodes of a page (44_decode.md): the raw integers and their ranges, and the physical values. -/

namespace Sys2Proof.Proofs

open Sys2Proof Sys2Proof.Machine Sys2Proof.Claims

/-! ### The raw integers, written out from the bytes -/

theorem u16_toNat (hi lo : Byte) : (u16 hi lo).toNat = hi.toNat * 256 + lo.toNat := by
  rw [u16, BitVec.toNat_append, Nat.shiftLeft_eq, Nat.mul_comm, ← Nat.two_pow_add_eq_or_of_lt lo.isLt]

theorem s16_u16 (hi lo : Byte) : s16 (u16 hi lo) = signed16 lo hi := by
  simp only [s16, u16_toNat, signed16]
  push_cast
  rfl

theorem signed16_range (lo hi : Byte) : -32768 ≤ signed16 lo hi ∧ signed16 lo hi ≤ 32767 := by
  have hlo := lo.isLt
  have hhi := hi.isLt
  unfold signed16
  split <;> omega

theorem decTemp_eq (buf : Vector Byte 9) : decTemp buf = signed16 buf[1] buf[2] >>> 3 := by
  have hshift : signed16 buf[1] buf[2] >>> (3 : Int) = signed16 buf[1] buf[2] >>> (3 : Nat) :=
    Int.shiftRight_natCast_right _ 3
  rw [decTemp, s16_u16, hshift, Int.shiftRight_eq_div_pow]
  rfl

theorem decVolt_eq (buf : Vector Byte 9) : decVolt buf = (buf[4].toNat * 256 + buf[3].toNat : Int) := by
  rw [decVolt, u16_toNat]
  push_cast
  rfl

/-- The two top bits of the 10-bit current field (R203). -/
theorem currentField_toNat (x : Byte) : (x &&& 0x03#8).toNat = x.toNat % 4 := by
  rw [BitVec.toNat_and]
  exact Nat.and_two_pow_sub_one_eq_mod _ 2

/-- Inverting and masking a word to its low ten bits (R203). -/
theorem inverted_masked_toNat (w : BitVec 16) : ((~~~w) &&& 0x3FF#16).toNat = (65535 - w.toNat) % 1024 := by
  rw [BitVec.toNat_and, BitVec.toNat_not]
  exact Nat.and_two_pow_sub_one_eq_mod _ 10

theorem decCurr_eq (buf : Vector Byte 9) : decCurr buf = rawCurrent buf := by
  simp only [decCurr, rawCurrent, currentField_toNat, inverted_masked_toNat, u16_toNat, s16_u16]

theorem decCurr_negative {buf : Vector Byte 9} (h : 1 < buf[6].toNat % 4) :
    decCurr buf = -(((65535 - (buf[6].toNat * 256 + buf[5].toNat)) % 1024 : Nat) : Int) := by
  rw [decCurr_eq, rawCurrent, if_pos h]

theorem decCurr_negative_range {buf : Vector Byte 9} (h : 1 < buf[6].toNat % 4) :
    -511 ≤ decCurr buf ∧ decCurr buf ≤ 0 := by
  have hhi := buf[6].isLt
  have hlo := buf[5].isLt
  rw [decCurr_negative h]
  omega

theorem decCurr_range (buf : Vector Byte 9) : -32768 ≤ decCurr buf ∧ decCurr buf ≤ 32255 := by
  have hhi := buf[6].isLt
  have hlo := buf[5].isLt
  by_cases h : 1 < buf[6].toNat % 4
  · have := decCurr_negative_range h
    omega
  · rw [decCurr_eq, rawCurrent, if_neg h, signed16]
    split <;> omega

/-- A byte with the low two bits of `y` and the high six of `x`. -/
theorem lowBitsKept_mod (x y : Byte) : ((x &&& 0xFC#8) ||| (y &&& 0x03#8)).toNat % 4 = y.toNat % 4 := by
  rw [← currentField_toNat, ← currentField_toNat]
  congr 1
  ext i hi
  interval_cases i <;> simp

/-- Bits 15:10 of a negative current play no part (R203). -/
theorem decCurr_high_bits {buf : Vector Byte 9} (h : 1 < buf[6].toNat % 4) (x : Byte) :
    decCurr (buf.set 6 ((x &&& 0xFC#8) ||| (buf[6] &&& 0x03#8))) = decCurr buf := by
  set y := (x &&& 0xFC#8) ||| (buf[6] &&& 0x03#8) with hy
  have hmod : y.toNat % 4 = buf[6].toNat % 4 := lowBitsKept_mod x buf[6]
  have hy8 := y.isLt
  have hhi := buf[6].isLt
  have hlo := buf[5].isLt
  have hset : (buf.set 6 y)[6] = y := Vector.getElem_set_self _
  have hsame : (buf.set 6 y)[5] = buf[5] := Vector.getElem_set_ne _ _ (by decide)
  rw [decCurr_negative h, decCurr_negative (by rw [hset, hmod]; exact h), hset, hsame]
  omega

/-- Settles O47: the ranges of 16-bit and 8-bit fields, and the masked path on its own. -/
theorem decodedValuesInRange : Obligations.DecodedValuesInRange := by
  refine fun buf => ⟨?temp, ?volt, decCurr_range buf, ?cap, fun h => ?negative⟩
  case temp =>
    have := signed16_range buf[1] buf[2]
    rw [decTemp, s16_u16]
    omega
  case volt =>
    have hhi := buf[4].isLt
    have hlo := buf[3].isLt
    rw [decVolt_eq]
    omega
  case cap =>
    have := buf[4].isLt
    rw [decCap]
    omega
  case negative => exact ⟨(decCurr_negative_range h).1, (decCurr_negative_range h).2, decCurr_high_bits h⟩

/-! ### The operations -/

/-- RVAL read as two's complement gives back an integer that fits. -/
theorem wordOfInt_toInt {v : Int} (h : -32768 ≤ v ∧ v ≤ 65535) : (wordOfInt v).toInt = v := by
  rw [wordOfInt, BitVec.toInt_ofInt]
  exact Int.bmod_eq_of_le (by omega) (by omega)

/-- Settles O46: each decode is one `return` of the integer that the bytes give. -/
theorem decodeOperationsResult : Obligations.DecodeOperationsResult := by
  refine ⟨by decide, by decide, by decide, by decide, fun s => ?_⟩
  obtain ⟨htemp, hvolt, hcurr, hcap, -⟩ := decodedValuesInRange s.buf
  refine ⟨⟨wordOfInt (decTemp s.buf), ?_, rfl⟩, ⟨wordOfInt (decVolt s.buf), ?_, rfl⟩,
    ⟨wordOfInt (decCurr s.buf), ?_, rfl⟩, ⟨wordOfInt (decCap s.buf), ?_, rfl⟩, ?_, ?_, ?_, rfl⟩
  · rw [wordOfInt_toInt (by omega), decTemp_eq]
  · rw [wordOfInt_toInt (by omega), decVolt_eq]
  · rw [wordOfInt_toInt (by omega), decCurr_eq]
  · rw [wordOfInt_toInt (by omega), decCap]
  · rw [State.celsiusOfBuf, celsius, decTemp_eq]
  · rw [State.voltsOfBuf, volts, decVolt_eq]
    push_cast
    rfl
  · rw [State.amperesOfBuf, amperes, decCurr_eq]

/-! ### The physical values (R206) -/

/-- Settles O48: each value is raw times scale, and each delivery nearest in its format. -/
theorem physicalValuesAreExact : Obligations.PhysicalValuesAreExact := by
  intro s
  have hohms : 0 < s.cfg.rSense.ohms := s.cfg.rSense.ohms_pos
  have hscale : 0 < 4096 * s.cfg.rSense.ohms := by positivity
  have hdeliver (x : ℚ) : match s.cfg.numFmt with
      | .exact => deliver s.cfg.numFmt x = x
      | .floating first others => (∃ v ∈ first :: others, deliver s.cfg.numFmt x = v.value) ∧
        ∀ v ∈ first :: others, |deliver s.cfg.numFmt x - x| ≤ |v.value - x| := by
    cases s.cfg.numFmt with
    | exact => exact deliver_exact x
    | floating first others =>
      obtain ⟨v, hv, hvalue, hnearest⟩ := deliver_floating first others x
      exact ⟨⟨v, hv, hvalue⟩, by rw [hvalue]; exact hnearest⟩
  refine ⟨hohms, div_mul_cancel₀ _ (by norm_num), div_mul_cancel₀ _ (by norm_num), div_mul_cancel₀ _ hscale.ne',
    div_mul_cancel₀ _ (by positivity), fun h => ?negative, hdeliver _, hdeliver _, hdeliver _, hdeliver _⟩
  case negative =>
    have hraw : |decCurr s.buf| < 1024 := by
      have := decCurr_negative_range h
      rw [abs_lt]
      omega
    rw [State.amperesOfBuf, amperes, abs_div, abs_of_pos hscale]
    exact div_lt_div_of_pos_right (by exact_mod_cast hraw) hscale

end Sys2Proof.Proofs

/-! The state in the middle of an operation, in terms of the state it was issued in: what the frames and page transactions
add to it, whatever stands in the working registers. -/

namespace Sys2Proof.Proofs

open Sys2Proof Sys2Proof.Machine Sys2Proof.Claims

/-- `s` after the slots `es` with `n` samples taken, and these values in PRESENCE, BUF, CRCREG and POLLCNT. -/
def State.after (s : State) (es : List BusEvent) (n : Nat) (present : Bool) (page : Vector Byte 9) (crc : Byte)
    (polls : Word) : State := { s with
  lineDrv := es.isEmpty && s.lineDrv, drawn := s.drawn + n, bus := s.bus ++ es
  pins := s.pins ++ es.flatMap (slotPins s.cfg), presence := present, buf := page, crcreg := crc, pollcnt := polls }

/-- `t` is that state, whatever SEQ, SHIFT, BITCNT and BYTECNT hold. -/
def IsAfter (s t : State) (es : List BusEvent) (n : Nat) (present : Bool) (page : Vector Byte 9) (crc : Byte)
    (polls : Word) : Prop :=
  t = { State.after s es n present page crc polls with
    seq := t.seq, shift := t.shift, bitcnt := t.bitcnt, bytecnt := t.bytecnt }

theorem IsAfter.refl (s : State) : IsAfter s s [] 0 s.presence s.buf s.crcreg s.pollcnt := by
  simp [IsAfter, State.after]

section Steps

variable {s t : State} {es : List BusEvent} {n : Nat} {present : Bool} {page : Vector Byte 9} {crc : Byte} {polls : Word}
variable (h : IsAfter s t es n present page crc polls)
include h

theorem IsAfter.samples : t.samples = s.samples := by rw [h]; rfl

theorem IsAfter.drawn : t.drawn = s.drawn + n := by rw [h]; rfl

theorem IsAfter.buf : t.buf = page := by rw [h]; rfl

theorem IsAfter.crcreg : t.crcreg = crc := by rw [h]; rfl

theorem IsAfter.level (k : Nat) : t.level k = s.level (k + n) := State.level_of_drawn h.samples h.drawn k

theorem IsAfter.level_zero : t.level 0 = s.level n := by rw [h.level, Nat.zero_add]

theorem IsAfter.level_one : t.level 1 = s.level (n + 1) := by rw [h.level, Nat.add_comm]

/-- A change of registers that no slot makes. -/
theorem IsAfter.with_registers {u : State} {page' : Vector Byte 9} {crc' : Byte} {polls' : Word}
    (hu : u = { t with buf := page', crcreg := crc', pollcnt := polls', seq := u.seq }) :
    IsAfter s u es n present page' crc' polls' := by
  rw [hu, h]; rfl

/-- Slots that follow. -/
theorem IsAfter.with_slots {u : State} {es' : List BusEvent} {m : Nat} {present' : Bool} {page' : Vector Byte 9}
    (hes : es'.isEmpty = false)
    (hu : u = { t with
      buf := page', presence := present', lineDrv := false, drawn := t.drawn + m, bus := t.bus ++ es'
      pins := t.pins ++ es'.flatMap (slotPins t.cfg)
      seq := u.seq, shift := u.shift, bitcnt := u.bitcnt, bytecnt := u.bytecnt }) :
    IsAfter s u (es ++ es') (n + m) present' page' crc polls := by
  have hne : es' ≠ [] := by simpa using hes
  rw [hu, h]
  simp [IsAfter, State.after, hne, Nat.add_assoc]

theorem IsAfter.resetSlot (hl : s.level n = .high) :
    IsAfter s t.resetSlot (es ++ [.rst .high]) (n + 1) false page crc polls := by
  have hlevel : t.level 0 = .high := h.level_zero.trans hl
  refine h.with_slots rfl ?_
  rw [State.resetSlot_eq, hlevel, h.buf]
  simp [presenceOf]

theorem IsAfter.commanded (hl : s.level n = .low) (command : Byte) :
    IsAfter s (t.commanded command) (es ++ functionEvents command) (n + 1) true page crc polls := by
  refine h.with_slots rfl ?_
  rw [State.commanded_eq (h.level_zero.trans hl), h.buf]

theorem IsAfter.framed (hl : s.level n = .low) (command p : Byte) :
    IsAfter s (t.framed command p) (es ++ pageEvents command p) (n + 1) true page crc polls := by
  refine h.with_slots rfl ?_
  rw [State.framed_eq (h.level_zero.trans hl), h.buf]

theorem IsAfter.sentPage : IsAfter s t.sentPage (es ++ bufEvents page) n present page crc polls := by
  refine h.with_slots (m := 0) rfl ?_
  rw [State.sentPage, h.buf]
  rw [h]
  rfl

theorem IsAfter.pageWasRead (hl : resetsLow s n) (p : Byte) :
    IsAfter s (t.pageWasRead p) (es ++ s.pageReadEvents p n) (n + 74) true (s.pageAt (n + 2)) crc polls := by
  have hevents := State.pageReadEvents_of_drawn h.samples h.drawn p 0
  have hpage := State.pageAt_of_drawn h.samples h.drawn 2
  rw [Nat.zero_add] at hevents
  rw [Nat.add_comm] at hpage
  refine h.with_slots rfl ?_
  rw [State.pageWasRead_eq (h.level_zero.trans hl.1) (h.level_one.trans hl.2), hevents, hpage]

theorem IsAfter.pageWasWritten (hl : resetsLow s n) (p : Byte) :
    IsAfter s (t.pageWasWritten p) (es ++ pageWriteEvents p page) (n + 2) true page crc polls := by
  refine h.with_slots rfl ?_
  rw [State.pageWasWritten_eq (h.level_zero.trans hl.1) (h.level_one.trans hl.2), h.buf]

theorem IsAfter.crcPasses (c : Bool) : t.crcPasses c = crcOk c page := by
  rw [State.crcPasses, State.bufPrefix, h.buf, crcOk]

theorem IsAfter.crcChecked (c : Bool) :
    IsAfter s (t.crcChecked c) es n present page (crcregAfter c crc page) polls := by
  refine h.with_registers ?_
  cases c with
  | true => rw [State.crcChecked, if_pos rfl, State.evalCrcBuf, State.bufPrefix, h.buf]; rw [h]; rfl
  | false => rw [State.crcChecked, if_neg nofun]; rw [h]; rfl

theorem IsAfter.withStatus (b : StatusBit) (v : Bool) :
    IsAfter s (t.withStatus b v) es n present (withBit page b.index v) crc polls := by
  refine h.with_registers ?_
  rw [State.withStatus, h.buf]; rw [h]; rfl

/-! ### Completions -/

/-- A completion after at least one slot. -/
theorem IsAfter.complete (hes : es.isEmpty = false) (c : ResultCode) (v : Word) :
    t.complete c v = { completed s (t.complete c v) c v es n with
      buf := page, presence := present, crcreg := crc, pollcnt := polls } := by
  rw [h]
  simp [State.complete, State.after, completed, hes]

end Steps

end Sys2Proof.Proofs

/-! The transactions (42_transactions.md, 43_flags.md): what each leaves for every answer of the line to its resets. -/

namespace Sys2Proof.Proofs

open Sys2Proof Sys2Proof.Machine Sys2Proof.Claims

/-! ### An absent device -/

/-- The statements open with parameter checks that pass and then a reset. -/
def resetsFirst : List Stmt → Bool
  | .param legal :: k => resetsFirst k && legal
  | .reset :: _ => true
  | _ => false

theorem runSeq_of_resetsFirst {k : List Stmt} (hk : resetsFirst k = true) {s : State} (h : s.level 0 = .high) :
    runSeq k s = (.fail .deviceNotFound, s.resetSlot) := by
  fun_induction resetsFirst k with
  | case1 legal k ih =>
    obtain ⟨hrest, hlegal⟩ := Bool.and_eq_true_iff.mp hk
    rw [hlegal, runSeq_param_true, ih hrest]
  | case2 k => exact runSeq_reset_high h k
  | case3 => cases hk

theorem resetsFirst_sequenceOf {i : Instr} (h : isTransaction i = true) :
    resetsFirst (sequenceOf i) = i.wellFormed := by
  cases i with
  | crc8Compute _ | crc8Check _ _ | reset | writeBit _ | readBit | writeByte _ | readByte | touchByte _ | touchBlock _
  | decodeTemperature | decodeVoltage | decodeCurrent | decodeCapacity => simp [isTransaction, encode] at h
  | _ => rfl

/-- Settles O50: the operand checks pass and the first reset fails. -/
theorem absentDeviceAbortsEveryTransaction : Obligations.AbsentDeviceAbortsEveryTransaction := by
  intro i s htransaction hw h
  have hfirst : resetsFirst (sequenceOf i) = true := (resetsFirst_sequenceOf htransaction).trans hw
  rw [exec_eq_runOp, runOp_of_fail (runSeq_of_resetsFirst hfirst h), fail_resetSlot_of_high h]

/-! ### From what the statements run to, to what the operation leaves -/

section Ends

variable {i : Instr} {s t : State} {es : List BusEvent} {n : Nat} {present : Bool} {page : Vector Byte 9} {crc : Byte}
  {polls : Word}

/-- The operation completes with `c` and `v` after these slots. -/
def Leaves (i : Instr) (s : State) (c : ResultCode) (v : Word) (es : List BusEvent) (n : Nat) (present : Bool)
    (page : Vector Byte 9) (crc : Byte) (polls : Word) : Prop :=
  ∃ t, exec i s = .next t ∧ t = { completed s t c v es n with
    buf := page, presence := present, crcreg := crc, pollcnt := polls }

theorem leaves_of_runOp {c : ResultCode} {v : Word} (hrun : runOp (sequenceOf i) s = t.complete c v)
    (h : IsAfter s t es n present page crc polls) (hes : es.isEmpty = false) :
    Leaves i s c v es n present page crc polls :=
  ⟨_, by rw [exec_eq_runOp, hrun], h.complete hes c v⟩

theorem leaves_of_fail {c : ResultCode} (hrun : runSeq (sequenceOf i) s = (.fail c, t))
    (h : IsAfter s t es n present page crc polls) (hes : es.isEmpty = false) :
    Leaves i s c 0 es n present page crc polls := leaves_of_runOp (runOp_of_fail hrun) h hes

theorem leaves_of_go (hrun : runSeq (sequenceOf i) s = (.go, t))
    (h : IsAfter s t es n present page crc polls) (hes : es.isEmpty = false) :
    Leaves i s .ok 0 es n present page crc polls := leaves_of_runOp (runOp_of_go hrun) h hes

theorem leaves_of_ret {v : Word} (hrun : runSeq (sequenceOf i) s = (.ret v, t))
    (h : IsAfter s t es n present page crc polls) (hes : es.isEmpty = false) :
    Leaves i s .ok v es n present page crc polls := leaves_of_runOp (by rw [runOp, hrun]; rfl) h hes

end Ends

/-! ### Page reads and page writes inside an operation -/

section Inside

variable {s t : State} {es : List BusEvent} {n : Nat} {present : Bool} {page : Vector Byte 9} {crc : Byte} {polls : Word}
variable (h : IsAfter s t es n present page crc polls)
include h

theorem IsAfter.runSeq_pageRead_first_high (hl : s.level n = .high) {p : Byte} (hp : legalPage p = true)
    (k : List Stmt) : runSeq (pageRead p ++ k) t = (.fail .deviceNotFound, t.resetSlot) := by
  rw [runSeq_pageRead, if_neg (by simp [hp]), if_pos (by simp [h.level_zero, hl])]

theorem IsAfter.runSeq_pageRead_second_high (hl : s.level n = .low) (hl' : s.level (n + 1) = .high) {p : Byte}
    (hp : legalPage p = true) (k : List Stmt) :
    runSeq (pageRead p ++ k) t = (.fail .deviceNotFound, (t.framed 0xB8 p).resetSlot) := by
  rw [runSeq_pageRead, if_neg (by simp [hp]), if_neg (by simp [h.level_zero, hl]), if_pos (by simp [h.level_one, hl'])]

theorem IsAfter.runSeq_pageRead_low (hl : resetsLow s n) {p : Byte} (hp : legalPage p = true) (k : List Stmt) :
    runSeq (pageRead p ++ k) t = runSeq k (t.pageWasRead p) := by
  obtain ⟨hfirst, hsecond⟩ := hl
  rw [runSeq_pageRead, if_neg (by simp [hp]), if_neg (by simp [h.level_zero, hfirst]),
    if_neg (by simp [h.level_one, hsecond])]

theorem IsAfter.runSeq_pageWrite_first_high (hl : s.level n = .high) {p : Byte} (hp : legalPage p = true)
    (k : List Stmt) : runSeq (pageWrite p ++ k) t = (.fail .deviceNotFound, t.resetSlot) := by
  rw [runSeq_pageWrite, if_neg (by simp [hp]), if_pos (by simp [h.level_zero, hl])]

theorem IsAfter.runSeq_pageWrite_second_high (hl : s.level n = .low) (hl' : s.level (n + 1) = .high) {p : Byte}
    (hp : legalPage p = true) (k : List Stmt) :
    runSeq (pageWrite p ++ k) t = (.fail .deviceNotFound, (t.framed 0x4E p).sentPage.resetSlot) := by
  rw [runSeq_pageWrite, if_neg (by simp [hp]), if_neg (by simp [h.level_zero, hl]), if_pos (by simp [h.level_one, hl'])]

theorem IsAfter.runSeq_pageWrite_low (hl : resetsLow s n) {p : Byte} (hp : legalPage p = true) (k : List Stmt) :
    runSeq (pageWrite p ++ k) t = runSeq k (t.pageWasWritten p) := by
  obtain ⟨hfirst, hsecond⟩ := hl
  rw [runSeq_pageWrite, if_neg (by simp [hp]), if_neg (by simp [h.level_zero, hfirst]),
    if_neg (by simp [h.level_one, hsecond])]

/-- The second reset of a page write fails: the frame and the nine bytes stand on the wire. -/
theorem IsAfter.write_second_high (hl : s.level n = .low) (hl' : s.level (n + 1) = .high) (p : Byte) :
    IsAfter s (t.framed 0x4E p).sentPage.resetSlot (es ++ pageEvents 0x4E p ++ bufEvents page ++ [.rst .high]) (n + 2)
      false page crc polls := (h.framed hl 0x4E p).sentPage.resetSlot hl'

end Inside

/-! ### Checked page reads -/

theorem pageReadChecked_append (p : Byte) (c : Bool) (k : List Stmt) :
    pageReadChecked p c ++ k = pageRead p ++ ((if c then checkBufSeq else []) ++ k) := List.append_assoc _ _ _

theorem runSeq_pageReadChecked_low {s : State} (hl : resetsLow s 0) {p : Byte} (hp : legalPage p = true) (c : Bool)
    (k : List Stmt) : runSeq (pageReadChecked p c ++ k) s =
      if crcOk c (s.pageAt 2) then runSeq k ((s.pageWasRead p).crcChecked c)
      else (.fail .crcFail, (s.pageWasRead p).crcChecked c) := by
  rw [runSeq_pageReadChecked, if_neg (by simp [hp]), if_neg (by simp [hl.1]), if_neg (by simpa using hl.2),
    ((IsAfter.refl s).pageWasRead hl p).crcPasses c]

/-- The state after a checked page read, from the operation's first slot on. -/
theorem isAfter_checked {s : State} (hl : resetsLow s 0) (p : Byte) (c : Bool) :
    IsAfter s ((s.pageWasRead p).crcChecked c) (s.pageReadEvents p 0) 74 true (s.pageAt 2)
      (crcregAfter c s.crcreg (s.pageAt 2)) s.pollcnt := ((IsAfter.refl s).pageWasRead hl p).crcChecked c

/-- An operation that returns a value of the page it reads and checks. -/
theorem leaves_checked_ret {i : Instr} {p : Byte} {c : Bool} {v : RetVal} {s : State} {w : Word}
    (hseq : sequenceOf i = pageReadChecked p c ++ [.ret v]) (hp : legalPage p = true) (hl : resetsLow s 0)
    (hw : ∀ t : State, t.buf = s.pageAt 2 → v.value t = w) :
    Leaves i s (readCode c (s.pageAt 2)) (if crcOk c (s.pageAt 2) then w else 0) (s.pageReadEvents p 0) 74 true
      (s.pageAt 2) (crcregAfter c s.crcreg (s.pageAt 2)) s.pollcnt := by
  have hafter := isAfter_checked hl p c
  have hrun := runSeq_pageReadChecked_low hl hp c [.ret v]
  rw [← hseq] at hrun
  cases hcrc : crcOk c (s.pageAt 2) with
  | true =>
    rw [hcrc, if_pos rfl] at hrun
    rw [readCode, hcrc, if_pos rfl, if_pos rfl]
    exact leaves_of_ret (hrun.trans (by rw [← hw _ hafter.buf]; rfl)) hafter rfl
  | false =>
    rw [hcrc, if_neg nofun] at hrun
    rw [readCode, hcrc, if_neg nofun, if_neg nofun]
    exact leaves_of_fail hrun hafter rfl

theorem abortsInPageRead_of_checked {i : Instr} {p : Byte} {c : Bool} {k : List Stmt}
    (hseq : sequenceOf i = pageReadChecked p c ++ k) (hp : p.toNat ≤ 7) (s : State) : abortsInPageRead i p s :=
  abortsInPageRead_of_exec hp (by rw [exec_eq_runOp, hseq, pageReadChecked_append])

/-! ### The statements -/

/-- Settles O29: the ROM block in closed form, then the check. -/
theorem romReadResult : Obligations.RomReadResult := by
  refine fun c s => ⟨by cases c <;> rfl, by cases c <;> rfl, rfl, fun h => ?high, fun h => ?low⟩
  case high =>
    exact absentDeviceAbortsEveryTransaction (.readRom c) s (by cases c <;> rfl) rfl h
  case low =>
    have hrun : runSeq (sequenceOf (.readRom c)) s = runSeq (if c then checkRomSeq else []) s.romWasRead := by
      rw [sequenceOf, seqReadRom, runSeq_romRead, if_pos h]
    have hrom : s.romWasRead.rom = s.romAt 1 := by rw [State.romWasRead_eq h]
    cases c with
    | false =>
      refine ⟨_, (exec_eq_runOp _ s).trans (congrArg Host.Outcome.next (runOp_of_go hrun)), ?_⟩
      rw [State.romWasRead_eq h]
      rfl
    | true =>
      rw [if_pos rfl, runSeq_checkRom, State.romPrefix, hrom] at hrun
      by_cases hcrc : crc8 ((s.romAt 1).toList.take 7) = (s.romAt 1)[7]
      · rw [if_pos hcrc] at hrun
        refine ⟨_, (exec_eq_runOp _ s).trans (congrArg Host.Outcome.next (runOp_of_go hrun)), ?_⟩
        rw [if_neg (by simp [hcrc]), State.evalCrcRom, State.romPrefix, hrom, State.romWasRead_eq h]
        rfl
      · rw [if_neg hcrc] at hrun
        refine ⟨_, (exec_eq_runOp _ s).trans (congrArg Host.Outcome.next (runOp_of_fail hrun)), ?_⟩
        rw [if_pos ⟨rfl, hcrc⟩, State.evalCrcRom, State.romPrefix, hrom, State.romWasRead_eq h]
        rfl

/-- Settles O32: the page number, then one page write for each answer of the line. -/
theorem writePageResult : Obligations.WritePageResult := by
  refine fun p s => ⟨by simp [encode, toNat_commandWord], fun hp => ?illegal, fun hp => ?legal⟩
  case illegal => exact illegalOperandIsBadParam (.writePage p) s (decide_eq_false (Nat.not_le.mpr hp))
  case legal =>
    have hlegal : legalPage p = true := decide_eq_true hp
    have hseq : sequenceOf (.writePage p) = pageWrite p ++ [] := (List.append_nil _).symm
    have hstart := IsAfter.refl s
    refine ⟨absentDeviceAbortsEveryTransaction (.writePage p) s (by simp [isTransaction, encode]) hlegal,
      fun h h' => ?_, fun h => ?_⟩
    · exact leaves_of_fail (hseq ▸ hstart.runSeq_pageWrite_second_high h h' hlegal [])
        (hstart.write_second_high h h' p) rfl
    · exact leaves_of_go (hseq ▸ hstart.runSeq_pageWrite_low h hlegal []) (hstart.pageWasWritten h p) rfl

theorem busyBit_eq (q : Poll) : q.busyBit = busyBit q := by cases q <;> rfl

theorem sequenceOf_readinessTest (q : Poll) (c : Bool) :
    sequenceOf (readinessTest q c) = pageReadChecked 0 c ++ [.failIfBusy q] := by cases q <;> rfl

/-- Settles O33: the checked page read, then the busy bit. -/
theorem readinessTestResult : Obligations.ReadinessTestResult := by
  refine fun q c s => ⟨by cases q <;> cases c <;> rfl,
    abortsInPageRead_of_checked (sequenceOf_readinessTest q c) (by decide) s, fun hl => ?_⟩
  have hafter := isAfter_checked hl 0 c
  have hrun := runSeq_pageReadChecked_low (p := 0) hl legalPage_zero c [.failIfBusy q]
  rw [runSeq_failIfBusy, hafter.buf, busyBit_eq, ← sequenceOf_readinessTest] at hrun
  cases hcrc : crcOk c (s.pageAt 2) with
  | false =>
    rw [hcrc, if_neg nofun] at hrun
    exact leaves_of_fail hrun hafter rfl
  | true =>
    rw [hcrc, if_pos rfl] at hrun
    rw [if_neg nofun]
    split
    · next hbusy =>
      rw [if_pos hbusy] at hrun
      exact leaves_of_fail hrun hafter rfl
    · next hbusy =>
      rw [if_neg hbusy] at hrun
      exact leaves_of_go hrun hafter rfl

/-- Settles O34: an unchecked page read, then the flag. -/
theorem copyInProgressResult : Obligations.CopyInProgressResult := by
  refine ⟨by decide, fun s => ⟨abortsInPageRead_of_checked (c := false) rfl (by decide) s, fun hl => ?_⟩⟩
  refine leaves_checked_ret (c := false) (v := .copyFlag) rfl legalPage_zero hl fun t ht => ?_
  rw [RetVal.value, ht]
  rfl

/-- Settles O35: a checked page read, then the top two bits of byte 7. -/
theorem readThresholdResult : Obligations.ReadThresholdResult := by
  refine fun c s => ⟨by cases c <;> rfl, abortsInPageRead_of_checked rfl (by decide) s, fun hl => ?_⟩
  refine leaves_checked_ret (v := .threshold) rfl legalPage_zero hl fun t ht => ?_
  rw [RetVal.value, ht, wordOfByte]
  apply BitVec.eq_of_toNat_eq
  have := (s.pageAt 2)[7].isLt
  simp [Nat.shiftRight_eq_div_pow]
  omega

/-- Settles O36: a checked read of page 1, then its byte 4. -/
theorem icaAndCapacityResult : Obligations.IcaAndCapacityResult := by
  refine fun c s => ⟨by cases c <;> rfl, by cases c <;> rfl, rfl, abortsInPageRead_of_checked rfl (by decide) s,
    fun hl => ?_⟩
  refine leaves_checked_ret (v := .capacity) rfl legalPage_one hl fun t ht => ?_
  rw [RetVal.value, ht, decCap, wordOfInt]
  apply BitVec.eq_of_toNat_eq
  simp

end Sys2Proof.Proofs

/-! Flag manipulation and the threshold write (43_flags.md): a page read, a changed byte, and the page written back. -/

namespace Sys2Proof.Proofs

open Sys2Proof Sys2Proof.Machine Sys2Proof.Claims

/-! ### An operation that ends with a page write -/

theorem runOp_congr {k k' : List Stmt} {s s' : State} (h : runSeq k s = runSeq k' s') : runOp k s = runOp k' s' := by
  rw [runOp, h, runOp]

/-- A page write neither branches nor polls. -/
theorem runOp_pageWrite (p : Byte) (s : State) : runOp (pageWrite p) s = settle (runSeq (pageWrite p) s) := by
  have hrun := runSeq_pageWrite p [] s
  rw [List.append_nil] at hrun
  rw [runOp, hrun]
  split_ifs <;> rfl

theorem settle_of_runSeq {k : List Stmt} {s s' : State} (h : runSeq k s = runSeq (pageWrite 0) s') :
    runOp k s = settle (runSeq (pageWrite 0) s') := (runOp_congr h).trans (runOp_pageWrite 0 s')

section WriteBack

variable {i : Instr} {s t : State} {es : List BusEvent} {n : Nat} {present : Bool} {page : Vector Byte 9} {crc : Byte}
  {polls : Word}

theorem leaves_of_settle_fail {c : ResultCode} (hrun : runOp (sequenceOf i) s = settle (.fail c, t))
    (h : IsAfter s t es n present page crc polls) (hes : es.isEmpty = false) :
    Leaves i s c 0 es n present page crc polls := leaves_of_runOp hrun h hes

variable (hrun : runOp (sequenceOf i) s = settle (runSeq (pageWrite 0) t)) (h : IsAfter s t es n present page crc polls)
include hrun h

/-- The write-back aborts at its first reset. -/
theorem leaves_write_first_high (hl : s.level n = .high) :
    Leaves i s .deviceNotFound 0 (es ++ [.rst .high]) (n + 1) false page crc polls := by
  have hwrite := h.runSeq_pageWrite_first_high (p := 0) hl legalPage_zero []
  rw [List.append_nil] at hwrite
  rw [hwrite] at hrun
  exact leaves_of_settle_fail hrun (h.resetSlot hl) (by simp)

/-- The write-back aborts at its second reset. -/
theorem leaves_write_second_high (hl : s.level n = .low) (hl' : s.level (n + 1) = .high) :
    Leaves i s .deviceNotFound 0 (es ++ (pageEvents 0x4E 0 ++ bufEvents page ++ [.rst .high])) (n + 2) false page crc
      polls := by
  have hwrite := h.runSeq_pageWrite_second_high (p := 0) hl hl' legalPage_zero []
  rw [List.append_nil] at hwrite
  rw [hwrite] at hrun
  have hafter := h.write_second_high hl hl' 0
  rw [List.append_assoc, List.append_assoc, ← List.append_assoc (pageEvents 0x4E 0)] at hafter
  exact leaves_of_settle_fail hrun hafter (by simp)

/-- The write-back succeeds. -/
theorem leaves_write_low (hl : resetsLow s n) :
    Leaves i s .ok 0 (es ++ pageWriteEvents 0 page) (n + 2) true page crc polls := by
  have hwrite := h.runSeq_pageWrite_low (p := 0) hl legalPage_zero []
  rw [List.append_nil] at hwrite
  rw [hwrite] at hrun
  exact leaves_of_runOp hrun (h.pageWasWritten hl 0) (by simp [pageWriteEvents, pageEvents, functionEvents])

end WriteBack

/-! ### Status bits -/

theorem sequenceOf_toggle {i : Instr} {b : Nat} {v : Bool} {w : Word} (h : (i, b, v, w) ∈ toggles) :
    ∃ flag : StatusBit, flag.index = b ∧ sequenceOf i = setStatusBit flag v ∧ encode i = w := by
  simp only [toggles, List.mem_cons, Prod.mk.injEq, List.not_mem_nil, or_false] at h
  obtain ⟨rfl, rfl, rfl, rfl⟩ | ⟨rfl, rfl, rfl, rfl⟩ | ⟨rfl, rfl, rfl, rfl⟩ | ⟨rfl, rfl, rfl, rfl⟩ |
    ⟨rfl, rfl, rfl, rfl⟩ | ⟨rfl, rfl, rfl, rfl⟩ := h
  · exact ⟨.iad, rfl, rfl, rfl⟩
  · exact ⟨.iad, rfl, rfl, rfl⟩
  · exact ⟨.ca, rfl, rfl, rfl⟩
  · exact ⟨.ca, rfl, rfl, rfl⟩
  · exact ⟨.ee, rfl, rfl, rfl⟩
  · exact ⟨.ee, rfl, rfl, rfl⟩

theorem setStatusBit_append (flag : StatusBit) (v : Bool) (k : List Stmt) :
    setStatusBit flag v ++ k = pageRead 0 ++ (.setStatus flag v :: (pageWrite 0 ++ k)) := by
  rw [setStatusBit, List.append_assoc, List.append_assoc, List.singleton_append]

/-- The page read of `SetStatusBit`, and the bit changed in BUF. -/
theorem runSeq_setStatusBit_low {s t : State} {es : List BusEvent} {n : Nat} {present : Bool} {page : Vector Byte 9}
    {crc : Byte} {polls : Word} (h : IsAfter s t es n present page crc polls) (hl : resetsLow s n) (flag : StatusBit)
    (v : Bool) (k : List Stmt) :
    runSeq (setStatusBit flag v ++ k) t = runSeq (pageWrite 0 ++ k) ((t.pageWasRead 0).withStatus flag v) := by
  rw [setStatusBit_append, h.runSeq_pageRead_low (p := 0) hl legalPage_zero, runSeq_setStatus]

/-- Settles O42: one page read, the bit of byte 0, one page write. -/
theorem statusBitToggleResult : Obligations.StatusBitToggleResult := by
  intro i b v w s hi
  obtain ⟨flag, rfl, hseq, hword⟩ := sequenceOf_toggle hi
  have hexec : exec i s = .next (runOp (pageRead 0 ++ (.setStatus flag v :: (pageWrite 0 ++ []))) s) := by
    rw [exec_eq_runOp, hseq, ← setStatusBit_append, List.append_nil]
  have hrun (hl : resetsLow s 0) :
      runOp (sequenceOf i) s = settle (runSeq (pageWrite 0) ((s.pageWasRead 0).withStatus flag v)) := by
    have h := runSeq_setStatusBit_low (IsAfter.refl s) hl flag v []
    rw [List.append_nil, List.append_nil, ← hseq] at h
    exact settle_of_runSeq h
  have hafter (hl : resetsLow s 0) := ((IsAfter.refl s).pageWasRead hl 0).withStatus flag v
  exact ⟨hword, abortsInPageRead_of_exec (by decide) hexec,
    fun hl h => leaves_write_first_high (hrun hl) (hafter hl) h,
    fun hl h h' => leaves_write_second_high (hrun hl) (hafter hl) h h',
    fun hl h => leaves_write_low (hrun hl) (hafter hl) h⟩

/-! ### Input source -/

/-- VDD is selected by 1, VAD by 0 (30_encoding.md R93). -/
theorem legalSource_bit {v : Byte} (h : v.toNat ≤ 1) : v.getLsbD 0 = decide (v = 1) := by
  have hv : v = 0 ∨ v = 1 := by
    have : v.toNat = 0 ∨ v.toNat = 1 := by omega
    exact this.imp (fun h => BitVec.eq_of_toNat_eq h) (fun h => BitVec.eq_of_toNat_eq h)
  obtain rfl | rfl := hv <;> rfl

theorem eq_true_of_crcOk {c : Bool} {page : Vector Byte 9} (h : crcOk c page = false) : c = true := by
  cases c with
  | true => rfl
  | false => exact absurd h nofun

/-- Settles O43: the selector, one checked page read, bit 3, one page write. -/
theorem selectInputSourceResult : Obligations.SelectInputSourceResult := by
  refine fun v c s => ⟨?word, fun hv => ?illegal, fun hv => ?legal⟩
  case word =>
    simp only [encode, toNat_commandWord]
    cases c <;> simp
  case illegal =>
    exact illegalOperandIsBadParam (.selectInputSource v c) s (decide_eq_false (Nat.not_le.mpr hv))
  case legal =>
    have hlegal : legalSource v = true := decide_eq_true hv
    have hseq : sequenceOf (.selectInputSource v c) =
        .param true :: (pageReadChecked 0 c ++ (.setStatus .ad (decide (v = 1)) :: pageWrite 0)) := by
      rw [sequenceOf, seqSelectInputSource, hlegal, legalSource_bit hv, List.append_assoc, List.singleton_append]
    have hexec : exec (.selectInputSource v c) s = .next (runOp (pageRead 0 ++
        ((if c then checkBufSeq else []) ++ (.setStatus .ad (decide (v = 1)) :: pageWrite 0))) s) := by
      rw [exec_eq_runOp, hseq, ← pageReadChecked_append, runOp_congr (runSeq_param_true _ s)]
    have hread (hl : resetsLow s 0) := runSeq_pageReadChecked_low (p := 0) hl legalPage_zero c
      (.setStatus .ad (decide (v = 1)) :: pageWrite 0)
    have hrun (hl : resetsLow s 0) (hcrc : crcOk c (s.pageAt 2) = true) :
        runOp (sequenceOf (.selectInputSource v c)) s =
          settle (runSeq (pageWrite 0) (((s.pageWasRead 0).crcChecked c).withStatus .ad (decide (v = 1)))) := by
      refine settle_of_runSeq ?_
      rw [hseq, runSeq_param_true, hread hl, if_pos hcrc, runSeq_setStatus]
    have hafter (hl : resetsLow s 0) := (isAfter_checked hl 0 c).withStatus .ad (decide (v = 1))
    refine ⟨abortsInPageRead_of_exec (by decide) hexec, fun hl hcrc => ?_,
      fun hl hcrc h => leaves_write_first_high (hrun hl hcrc) (hafter hl) h,
      fun hl hcrc h h' => leaves_write_second_high (hrun hl hcrc) (hafter hl) h h',
      fun hl hcrc h => leaves_write_low (hrun hl hcrc) (hafter hl) h⟩
    obtain rfl := eq_true_of_crcOk hcrc
    refine leaves_of_fail ?_ (isAfter_checked hl 0 true) rfl
    rw [hseq, runSeq_param_true, hread hl, if_neg (by simp [hcrc])]

/-! ### Threshold -/

theorem thresholdByte_eq (v : Byte) : v <<< 6 = BitVec.ofNat 8 (64 * v.toNat) := by
  apply BitVec.eq_of_toNat_eq
  simp [Nat.shiftLeft_eq, Nat.mul_comm]

theorem IsAfter.withThreshold {s t : State} {es : List BusEvent} {n : Nat} {present : Bool} {page : Vector Byte 9}
    {crc : Byte} {polls : Word} (h : IsAfter s t es n present page crc polls) (v : Byte) :
    IsAfter s { t with buf := t.buf.set 7 (v <<< 6) } es n present (page.set 7 (BitVec.ofNat 8 (64 * v.toNat))) crc
      polls := by
  refine h.with_registers ?_
  rw [thresholdByte_eq, h.buf]
  rw [h]
  rfl

section Threshold

variable {v : Byte} (hv : v.toNat ≤ 3) {s : State}
include hv

theorem exec_writeThreshold_of_legal (s : State) :
    exec (.writeThreshold v) s = .next (runOp (pageRead 0 ++ [.pauseIad v]) s) := by
  have hlegal : legalThreshold v = true := decide_eq_true hv
  rw [exec_eq_runOp, sequenceOf, seqWriteThreshold, hlegal, runOp_congr (runSeq_param_true _ s)]

/-- After its first page read `write_threshold` goes on with the rest that IAD selects. -/
theorem runOp_writeThreshold (hl : resetsLow s 0) :
    runOp (sequenceOf (.writeThreshold v)) s =
      settle (runSeq (thresholdRest ((s.pageAt 2)[0].getLsbD 0) v) (s.pageWasRead 0)) := by
  have hexec := exec_writeThreshold_of_legal hv s
  rw [exec_eq_runOp, Host.Outcome.next.injEq] at hexec
  have hrun : runSeq (pageRead 0 ++ [.pauseIad v]) s =
      (.branch (thresholdRest ((s.pageWasRead 0).buf[0].getLsbD 0) v), s.pageWasRead 0) :=
    (IsAfter.refl s).runSeq_pageRead_low (p := 0) hl legalPage_zero [.pauseIad v]
  rw [((IsAfter.refl s).pageWasRead hl 0).buf] at hrun
  rw [hexec, runOp, hrun]

theorem runOp_writeThreshold_paused (hl : resetsLow s 0) (hiad : (s.pageAt 2)[0].getLsbD 0 = false) :
    runOp (sequenceOf (.writeThreshold v)) s = settle (runSeq (pageWrite 0)
      { s.pageWasRead 0 with buf := (s.pageWasRead 0).buf.set 7 (v <<< 6) }) := by
  rw [runOp_writeThreshold hv hl, hiad]
  rfl

theorem runOp_writeThreshold_enabled (hl : resetsLow s 0) (hiad : (s.pageAt 2)[0].getLsbD 0 = true) :
    runOp (sequenceOf (.writeThreshold v)) s =
      settle (runSeq (setStatusBit .iad false ++ thresholdTail v) (s.pageWasRead 0)) := by
  rw [runOp_writeThreshold hv hl, hiad]
  rfl

/-- With IAD set: the nested page read, and bit 0 cleared in BUF. -/
theorem runOp_writeThreshold_nested_read (hl : resetsLow s 0) (hiad : (s.pageAt 2)[0].getLsbD 0 = true)
    (hl' : resetsLow s 74) :
    runOp (sequenceOf (.writeThreshold v)) s = settle (runSeq (pageWrite 0 ++ thresholdTail v)
      (((s.pageWasRead 0).pageWasRead 0).withStatus .iad false)) := by
  rw [runOp_writeThreshold_enabled hv hl hiad,
    runSeq_setStatusBit_low ((IsAfter.refl s).pageWasRead hl 0) hl' .iad false (thresholdTail v)]

end Threshold

/-- The state after the nested page read of `write_threshold`, with bit 0 of byte 0 cleared. -/
theorem isAfter_nested_read {s : State} (hl : resetsLow s 0) (hl' : resetsLow s 74) :
    IsAfter s (((s.pageWasRead 0).pageWasRead 0).withStatus .iad false) (s.pageReadEvents 0 0 ++ s.pageReadEvents 0 74)
      148 true (withBit (s.pageAt 76) 0 false) s.crcreg s.pollcnt :=
  (((IsAfter.refl s).pageWasRead hl 0).pageWasRead hl' 0).withStatus .iad false

/-- The nested write succeeds: only byte 7 and the last write remain. -/
theorem runOp_writeThreshold_nested_write {v : Byte} (hv : v.toNat ≤ 3) {s : State} (hl : resetsLow s 0)
    (hiad : (s.pageAt 2)[0].getLsbD 0 = true) (hread : resetsLow s 74) (hwrite : resetsLow s 148) :
    ∃ u, runOp (sequenceOf (.writeThreshold v)) s = settle (runSeq (pageWrite 0) u) ∧
      IsAfter s u (s.pageReadEvents 0 0 ++ s.pageReadEvents 0 74 ++ pageWriteEvents 0 (withBit (s.pageAt 76) 0 false)) 150
        true ((withBit (s.pageAt 76) 0 false).set 7 (BitVec.ofNat 8 (64 * v.toNat))) s.crcreg s.pollcnt := by
  have hnested := isAfter_nested_read hl hread
  refine ⟨_, ?_, (hnested.pageWasWritten hwrite 0).withThreshold v⟩
  rw [runOp_writeThreshold_nested_read hv hl hiad hread, hnested.runSeq_pageWrite_low (p := 0) hwrite legalPage_zero]
  rfl

/-- Settles O44: the value, the first page read, and the writes that IAD asks for. -/
theorem writeThresholdResult : Obligations.WriteThresholdResult := by
  refine fun v s => ⟨by simp [encode, toNat_commandWord], fun hv => ?illegal, fun hv => ⟨?aborts, ?clear, ?set⟩⟩
  case illegal => exact illegalOperandIsBadParam (.writeThreshold v) s (decide_eq_false (Nat.not_le.mpr hv))
  case aborts => exact abortsInPageRead_of_exec (by decide) (exec_writeThreshold_of_legal hv s)
  case clear =>
    intro hl hiad hwrite
    exact leaves_write_low (runOp_writeThreshold_paused hv hl hiad)
      (((IsAfter.refl s).pageWasRead hl 0).withThreshold v) hwrite
  case set =>
    intro hl hiad hread hpaused hwrite
    obtain ⟨u, hrun, hafter⟩ := runOp_writeThreshold_nested_write hv hl hiad hread hpaused
    exact leaves_write_low hrun hafter hwrite

/-- The slots of an abort, however they are grouped. -/
theorem aborts_of_leaves {i : Instr} {s : State} {es es' : List BusEvent} {n : Nat} {page : Vector Byte 9}
    (h : Leaves i s .deviceNotFound 0 es n false page s.crcreg s.pollcnt) (hes : es = es') :
    ∃ t, exec i s = .next t ∧
      t = { completed s t .deviceNotFound 0 es' n with buf := page, presence := false } := hes ▸ h

/-- Settles O45: the abort at each reset after the first page read, with the page that BUF holds there. -/
theorem writeThresholdAborts : Obligations.WriteThresholdAborts := by
  intro v s hv hl aborts raised paused
  have hfirst := (IsAfter.refl s).pageWasRead hl 0
  refine ⟨fun hiad => ⟨fun h => ?third, fun h h' => ?fourth⟩, fun hiad => ⟨fun h => ?readFirst, fun h h' => ?readSecond,
    fun hread h => ?pauseFirst, fun hread h h' => ?pauseSecond, fun hread hpaused h => ?writeFirst,
    fun hread hpaused h h' => ?writeSecond⟩⟩
  case third =>
    exact aborts_of_leaves
      (leaves_write_first_high (runOp_writeThreshold_paused hv hl hiad) (hfirst.withThreshold v) h) (by simp)
  case fourth =>
    exact aborts_of_leaves
      (leaves_write_second_high (runOp_writeThreshold_paused hv hl hiad) (hfirst.withThreshold v) h h')
      (by simp [raised])
  case readFirst =>
    refine aborts_of_leaves (leaves_of_settle_fail (t := (s.pageWasRead 0).resetSlot) ?_ (hfirst.resetSlot h) rfl)
      (by simp)
    rw [runOp_writeThreshold_enabled hv hl hiad, setStatusBit_append,
      hfirst.runSeq_pageRead_first_high (p := 0) h legalPage_zero]
  case readSecond =>
    refine aborts_of_leaves (leaves_of_settle_fail (t := ((s.pageWasRead 0).framed 0xB8 0).resetSlot) ?_
      ((hfirst.framed h 0xB8 0).resetSlot h') rfl) (by simp)
    rw [runOp_writeThreshold_enabled hv hl hiad, setStatusBit_append,
      hfirst.runSeq_pageRead_second_high (p := 0) h h' legalPage_zero]
  case pauseFirst =>
    have hnested := isAfter_nested_read hl hread
    refine aborts_of_leaves (leaves_of_settle_fail ?_ (hnested.resetSlot h) rfl) rfl
    rw [runOp_writeThreshold_nested_read hv hl hiad hread,
      hnested.runSeq_pageWrite_first_high (p := 0) h legalPage_zero]
  case pauseSecond =>
    have hnested := isAfter_nested_read hl hread
    refine aborts_of_leaves (leaves_of_settle_fail ?_ (hnested.write_second_high h h' 0) rfl) (by simp [paused])
    rw [runOp_writeThreshold_nested_read hv hl hiad hread,
      hnested.runSeq_pageWrite_second_high (p := 0) h h' legalPage_zero]
  case writeFirst =>
    obtain ⟨u, hrun, hafter⟩ := runOp_writeThreshold_nested_write hv hl hiad hread hpaused
    exact aborts_of_leaves (leaves_write_first_high hrun hafter h) (by simp [paused])
  case writeSecond =>
    obtain ⟨u, hrun, hafter⟩ := runOp_writeThreshold_nested_write hv hl hiad hread hpaused
    exact aborts_of_leaves (leaves_write_second_high hrun hafter h h') (by simp [paused, raised])

end Sys2Proof.Proofs

/-! The blocking reads (42_transactions.md R161 to R163): one poll in closed form, the state after any number of polls that
did not answer Ok, and the ways the loop ends. -/

namespace Sys2Proof.Proofs

open Sys2Proof Sys2Proof.Machine Sys2Proof.Claims

/-! ### One poll -/

theorem pollReady_iff {q : Poll} {c : Bool} {s : State} {n : Nat} : pollReady q c s n = true ↔
    resetsLow s n ∧ crcOk c (s.pageAt (n + 2)) = true ∧ (s.pageAt (n + 2))[0].getLsbD (busyBit q) = false := by
  simp only [pollReady, Bool.and_eq_true, decide_eq_true_eq, Bool.not_eq_true', and_assoc]

section Poll

variable {s t : State} {es : List BusEvent} {n : Nat} {present : Bool} {page : Vector Byte 9} {crc : Byte} {polls : Word}

/-- Everything a poll that starts at sample `n` does: it falls through exactly when it is ready, and leaves its slots, its
last reset's PRESENCE, and the page if it read one. -/
theorem IsAfter.runSeq_hasData (h : IsAfter s t es n present page crc polls) (q : Poll) (c : Bool) :
    ∃ f u, runSeq (hasData q c) t = (f, u) ∧ (f = .go ↔ pollReady q c s n = true) ∧
      IsAfter s u (es ++ pollEvents s n) (n + pollSamples s n) (decide (resetsLow s n))
        (if resetsLow s n then s.pageAt (n + 2) else page)
        (if resetsLow s n then crcregAfter c crc (s.pageAt (n + 2)) else crc) polls := by
  have hseq : hasData q c = pageRead 0 ++ ((if c then checkBufSeq else []) ++ [.failIfBusy q]) := by
    rw [hasData, pageReadChecked_append]
  rcases Level.low_or_high (s.level n) with hfirst | hfirst
  · rcases Level.low_or_high (s.level (n + 1)) with hsecond | hsecond
    · have hl : resetsLow s n := ⟨hfirst, hsecond⟩
      have hafter := (h.pageWasRead hl 0).crcChecked c
      have hevents : pollEvents s n = s.pageReadEvents 0 n := by simp [pollEvents, hfirst, hsecond]
      have hsamples : pollSamples s n = 74 := by simp [pollSamples, hfirst, hsecond]
      rw [hevents, hsamples, if_pos hl, if_pos hl, decide_eq_true hl, pollReady_iff, and_iff_right hl]
      have hrun : runSeq (hasData q c) t =
          (if crcOk c (s.pageAt (n + 2)) = false then .fail .crcFail
            else if (s.pageAt (n + 2))[0].getLsbD (busyBit q) then .fail .error else .go,
          (t.pageWasRead 0).crcChecked c) := by
        rw [Machine.runSeq_hasData, if_neg (by simp [h.level_zero, hfirst]), if_neg (by simp [h.level_one, hsecond]),
          State.statusWasRead, hafter.buf, (h.pageWasRead hl 0).crcPasses, busyBit_eq]
        split_ifs <;> rfl
      refine ⟨_, _, hrun, ?_, hafter⟩
      cases crcOk c (s.pageAt (n + 2)) <;> cases (s.pageAt (n + 2))[0].getLsbD (busyBit q) <;> simp
    · have hl : ¬resetsLow s n := fun hl => by simp [hl.2] at hsecond
      have hevents : pollEvents s n = pageEvents 0xB8 0 ++ [.rst .high] := by simp [pollEvents, hfirst, hsecond]
      have hsamples : pollSamples s n = 2 := by simp [pollSamples, hfirst, hsecond]
      rw [hevents, hsamples, if_neg hl, if_neg hl, decide_eq_false hl, pollReady_iff, ← List.append_assoc]
      refine ⟨.fail .deviceNotFound, _, ?_, by simp [hsecond], (h.framed hfirst 0xB8 0).resetSlot hsecond⟩
      rw [hseq, h.runSeq_pageRead_second_high (p := 0) hfirst hsecond legalPage_zero]
  · have hl : ¬resetsLow s n := fun hl => by simp [hl.1] at hfirst
    have hevents : pollEvents s n = [.rst .high] := by simp [pollEvents, hfirst]
    have hsamples : pollSamples s n = 1 := by simp [pollSamples, hfirst]
    rw [hevents, hsamples, if_neg hl, if_neg hl, decide_eq_false hl, pollReady_iff]
    refine ⟨.fail .deviceNotFound, _, ?_, by simp [hfirst], h.resetSlot hfirst⟩
    rw [hseq, h.runSeq_pageRead_first_high (p := 0) hfirst legalPage_zero]

theorem pollEvents_isEmpty (s : State) (n : Nat) : (pollEvents s n).isEmpty = false := by
  unfold pollEvents
  split_ifs <;> rfl

/-- The poll answers Ok: the page is read afresh. -/
theorem pollOnce_of_ready {q : Poll} {c : Bool} {u : State} (hrun : runSeq (hasData q c) t = (.go, u)) :
    pollOnce q c (hasData q c) t = settle (runSeq (finalRead q c) { u with pollcnt := u.pollcnt + 1 }) := by
  rw [pollOnce, hrun]

theorem pollOnce_of_failed {q : Poll} {c : Bool} {f : Flow} {u : State} (hrun : runSeq (hasData q c) t = (f, u))
    (hf : f ≠ .go) : pollOnce q c (hasData q c) t = u.pollAgain q c := by
  rw [pollOnce, hrun]
  cases f with
  | go => exact absurd rfl hf
  | _ => rfl

/-- At the start of a poll the core's move is that poll. -/
theorem step_polling {q : Poll} {c : Bool} (hbusy : t.busy = true) (hseq : t.seq = .polling q c (hasData q c))
    (hagenda : t.agenda = []) : step t = .next (pollOnce q c (hasData q c) t) := by
  rw [step_of_agenda_nil hagenda, coreStep_polling hbusy hseq, State.runOn, hseq]

theorem boundReached_iff (h : IsAfter s t es n present page crc polls) :
    BoundReached t ↔ 0 < s.cfg.pollLimit.toNat ∧ s.cfg.pollLimit.toNat ≤ (polls + 1).toNat := by
  rw [BoundReached, h]
  rfl

/-- The state between two polls. -/
theorem IsAfter.polledAgain (h : IsAfter s t es n present page crc polls) (q : Poll) (c : Bool) :
    IsAfter s { t with pollcnt := t.pollcnt + 1, seq := .polling q c (hasData q c) } es n present page crc
      (polls + 1) := by
  rw [h]
  rfl

/-- The state after the poll that leaves the loop, or reaches its bound, has counted it. -/
theorem IsAfter.counted (h : IsAfter s t es n present page crc polls) :
    IsAfter s { t with pollcnt := t.pollcnt + 1 } es n present page crc (polls + 1) := by
  rw [h]
  rfl

end Poll

/-- Settles O39: one poll in closed form, and the bound not reached. -/
theorem failedPollIsFollowedByAnother : Obligations.FailedPollIsFollowedByAnother := by
  intro q c s hbusy hseq hagenda hready hbound
  obtain ⟨f, u, hrun, hgo, hafter⟩ := (IsAfter.refl s).runSeq_hasData q c
  have hf : f ≠ .go := fun h => by simp [hgo.mp h] at hready
  have hopen : ¬BoundReached u := by
    rw [boundReached_iff hafter]
    obtain hzero | hlt := hbound
    · simp [hzero]
    · omega
  refine ⟨_, step_polling hbusy hseq hagenda, ?_⟩
  rw [pollOnce_of_failed hrun hf, pollAgain_of_not_bound hopen]
  refine (hafter.polledAgain q c).trans ?_
  simp [State.after, pollEvents_isEmpty, hseq]

/-! ### The final page read -/

/-- `u` is `s` after an operation that completed with `c` and `v` after these slots. -/
def CompletedAs (s u : State) (c : ResultCode) (v : Word) (es : List BusEvent) (n : Nat) (present : Bool)
    (page : Vector Byte 9) (crc : Byte) (polls : Word) : Prop :=
  u = { completed s u c v es n with buf := page, presence := present, crcreg := crc, pollcnt := polls }

section FinalRead

variable {s t : State} {es : List BusEvent} {n : Nat} {present : Bool} {page : Vector Byte 9} {crc : Byte} {polls : Word}
variable (h : IsAfter s t es n present page crc polls)
include h

/-- The raw value that the decode returns (R162, R163). -/
theorem IsAfter.value_decode (q : Poll) : q.decode.value t = BitVec.ofInt 32 (rawValue q page) := by
  cases q with
  | voltage => rw [Poll.decode, RetVal.value, h.buf, decVolt_eq]; rfl
  | temperature => rw [Poll.decode, RetVal.value, h.buf, decTemp_eq]; rfl

/-- Both resets of the final page read detect presence. -/
theorem IsAfter.finalRead_low (hl : resetsLow s n) (q : Poll) (c : Bool) :
    CompletedAs s (settle (runSeq (finalRead q c) t)) (readCode c (s.pageAt (n + 2)))
      (if crcOk c (s.pageAt (n + 2)) then BitVec.ofInt 32 (rawValue q (s.pageAt (n + 2))) else 0)
      (es ++ s.pageReadEvents 0 n) (n + 74) true (s.pageAt (n + 2)) (crcregAfter c crc (s.pageAt (n + 2))) polls := by
  have hread := h.pageWasRead hl 0
  have hafter := hread.crcChecked c
  have hempty : (es ++ s.pageReadEvents 0 n).isEmpty = false := by
    simp [State.pageReadEvents, pageEvents, functionEvents]
  have hrun : runSeq (finalRead q c) t =
      (if crcOk c (s.pageAt (n + 2)) then .ret (BitVec.ofInt 32 (rawValue q (s.pageAt (n + 2)))) else .fail .crcFail,
      (t.pageWasRead 0).crcChecked c) := by
    rw [finalRead, runSeq_pageReadChecked, if_neg (by decide), if_neg (by simp [h.level_zero, hl.1]),
      if_neg (by simp [h.level_one, hl.2]), hread.crcPasses, ← hafter.value_decode]
    split_ifs <;> rfl
  rw [hrun, readCode]
  split_ifs
  · exact hafter.complete hempty .ok _
  · exact hafter.complete hempty .crcFail 0

/-- The first reset of the final page read fails. -/
theorem IsAfter.finalRead_first_high (hl : s.level n = .high) (q : Poll) (c : Bool) :
    CompletedAs s (settle (runSeq (finalRead q c) t)) .deviceNotFound 0 (es ++ [.rst .high]) (n + 1) false page crc
      polls := by
  rw [finalRead, pageReadChecked_append, h.runSeq_pageRead_first_high (p := 0) hl legalPage_zero]
  exact (h.resetSlot hl).complete (by simp) .deviceNotFound 0

/-- The second reset of the final page read fails. -/
theorem IsAfter.finalRead_second_high (hl : s.level n = .low) (hl' : s.level (n + 1) = .high) (q : Poll) (c : Bool) :
    CompletedAs s (settle (runSeq (finalRead q c) t)) .deviceNotFound 0 (es ++ (pageEvents 0xB8 0 ++ [.rst .high]))
      (n + 2) false page crc polls := by
  rw [finalRead, pageReadChecked_append, h.runSeq_pageRead_second_high (p := 0) hl hl' legalPage_zero,
    ← List.append_assoc]
  exact ((h.framed hl 0xB8 0).resetSlot hl').complete (by simp) .deviceNotFound 0

end FinalRead

/-! ### The state after any number of failed polls -/

theorem pollsEvents_isEmpty (q : Poll) (s : State) (n : Nat) : (pollsEvents q s n).isEmpty = false := by
  induction n with
  | zero => rfl
  | succ n ih => simpa [pollsEvents] using fun h => absurd h (by simpa using ih)

/-- A second check of CRCREG leaves nothing of the first. -/
theorem crcregAfter_crcregAfter (c : Bool) (old : Byte) (page page' : Vector Byte 9) :
    crcregAfter c (crcregAfter c old page) page' = crcregAfter c old page' := by cases c <;> rfl

theorem crcregAfter_pollsCrcreg (c : Bool) (s : State) (n : Nat) (page : Vector Byte 9) :
    crcregAfter c (pollsCrcreg c s n) page = crcregAfter c s.crcreg page := by
  induction n with
  | zero => rfl
  | succ n ih =>
    rw [pollsCrcreg]
    split_ifs
    · rw [crcregAfter_crcregAfter, ih]
    · exact ih

/-- PRESENCE after the start command and the first `n` polls. -/
def pollsPresence (s : State) : Nat → Bool
  | 0 => true
  | n + 1 => decide (resetsLow s (pollStart s n))

/-- `t` is `s` after the start command and `n` polls that did not answer Ok, at the start of the next poll. -/
structure PolledTo (q : Poll) (c : Bool) (s : State) (n : Nat) (t : State) : Prop where
  seq : t.seq = .polling q c (hasData q c)
  after : IsAfter s t (pollsEvents q s n) (pollStart s n) (pollsPresence s n) (pollsBuf s n) (pollsCrcreg c s n)
    (BitVec.ofNat 32 n)

theorem PolledTo.busy {q : Poll} {c : Bool} {s t : State} {n : Nat} (h : PolledTo q c s n t) : t.busy = s.busy := by
  rw [h.after]; rfl

theorem PolledTo.agenda {q : Poll} {c : Bool} {s t : State} {n : Nat} (h : PolledTo q c s n t) :
    t.agenda = s.agenda := by
  rw [h.after]; rfl

theorem PolledTo.result {q : Poll} {c : Bool} {s t : State} {n : Nat} (h : PolledTo q c s n t) :
    t.result = s.result := by
  rw [h.after]; rfl

/-- The bound is not reached by poll number `n`. -/
def boundAbove (s : State) (n : Nat) : Prop := s.cfg.pollLimit = 0 ∨ n + 1 < s.cfg.pollLimit.toNat

theorem ofNat_succ_word (n : Nat) : BitVec.ofNat 32 n + 1 = BitVec.ofNat 32 (n + 1) := (BitVec.ofNat_add n 1).symm

theorem ofNat_succ_toNat_le (n : Nat) : (BitVec.ofNat 32 n + 1).toNat ≤ n + 1 := by
  rw [ofNat_succ_word, BitVec.toNat_ofNat]
  exact Nat.mod_le _ _

/-- A poll that does not answer Ok, where the bound is not reached. -/
theorem PolledTo.failed {q : Poll} {c : Bool} {s t : State} {n : Nat} (h : PolledTo q c s n t)
    (hready : pollReady q c s (pollStart s n) = false) (hbound : boundAbove s n) :
    PolledTo q c s (n + 1) (pollOnce q c (hasData q c) t) := by
  obtain ⟨f, u, hrun, hgo, hafter⟩ := h.after.runSeq_hasData q c
  have hf : f ≠ .go := fun h => by simp [hgo.mp h] at hready
  have hopen : ¬BoundReached u := by
    rw [boundReached_iff hafter]
    have hle := ofNat_succ_toNat_le n
    obtain hzero | hlt := hbound
    · simp [hzero]
    · omega
  rw [pollOnce_of_failed hrun hf, pollAgain_of_not_bound hopen]
  refine ⟨rfl, ?_⟩
  have hnext := hafter.polledAgain q c
  rw [ofNat_succ_word] at hnext
  exact hnext

/-- A poll that does not answer Ok, where the bound is reached. -/
theorem PolledTo.timedOut {q : Poll} {c : Bool} {s t : State} {n : Nat} (h : PolledTo q c s n t)
    (hready : pollReady q c s (pollStart s n) = false) (hbound : s.cfg.pollLimit.toNat = n + 1) :
    CompletedAs s (pollOnce q c (hasData q c) t) .timeout 0 (pollsEvents q s (n + 1)) (pollStart s (n + 1))
      (pollsPresence s (n + 1)) (pollsBuf s (n + 1)) (pollsCrcreg c s (n + 1)) s.cfg.pollLimit := by
  obtain ⟨f, u, hrun, hgo, hafter⟩ := h.after.runSeq_hasData q c
  have hf : f ≠ .go := fun h => by simp [hgo.mp h] at hready
  have hcount : BitVec.ofNat 32 n + 1 = s.cfg.pollLimit := by
    apply BitVec.eq_of_toNat_eq
    have hlt := s.cfg.pollLimit.isLt
    rw [ofNat_succ_word, BitVec.toNat_ofNat, hbound, Nat.mod_eq_of_lt (by omega)]
  have hreached : BoundReached u := by
    rw [boundReached_iff hafter, hcount]
    omega
  rw [pollOnce_of_failed hrun hf, pollAgain_of_bound hreached]
  have hcounted := hafter.counted
  rw [hcount] at hcounted
  exact hcounted.complete (pollsEvents_isEmpty q s (n + 1)) .timeout 0

/-! ### A poll that answers Ok -/

/-- The final page read follows, with the page of the poll in BUF. -/
theorem PolledTo.ready {q : Poll} {c : Bool} {s t : State} {n : Nat} (h : PolledTo q c s n t)
    (hready : pollReady q c s (pollStart s n) = true) :
    ∃ u, pollOnce q c (hasData q c) t = settle (runSeq (finalRead q c) u) ∧
      IsAfter s u (pollsEvents q s (n + 1)) (pollStart s (n + 1)) true (s.pageAt (pollStart s n + 2))
        (crcregAfter c s.crcreg (s.pageAt (pollStart s n + 2))) (BitVec.ofNat 32 (n + 1)) := by
  obtain ⟨f, u, hrun, hgo, hafter⟩ := h.after.runSeq_hasData q c
  obtain ⟨hl, -, -⟩ := pollReady_iff.mp hready
  rw [hgo.mpr hready] at hrun
  rw [if_pos hl, if_pos hl, decide_eq_true hl, crcregAfter_pollsCrcreg] at hafter
  refine ⟨_, pollOnce_of_ready hrun, ?_⟩
  have hcounted := hafter.counted
  rw [ofNat_succ_word] at hcounted
  exact hcounted

/-- The ways a blocking read ends whose poll number `m` answers Ok (R161 to R163). -/
structure EndsAfter (q : Poll) (c : Bool) (s : State) (m : Nat) (u : State) : Prop where
  read (hl : resetsLow s (pollStart s (m + 1))) :
    CompletedAs s u (readCode c (s.pageAt (pollStart s (m + 1) + 2)))
      (if crcOk c (s.pageAt (pollStart s (m + 1) + 2))
        then BitVec.ofInt 32 (rawValue q (s.pageAt (pollStart s (m + 1) + 2))) else 0)
      (pollsEvents q s (m + 1) ++ s.pageReadEvents 0 (pollStart s (m + 1))) (pollStart s (m + 1) + 74) true
      (s.pageAt (pollStart s (m + 1) + 2)) (crcregAfter c s.crcreg (s.pageAt (pollStart s (m + 1) + 2)))
      (BitVec.ofNat 32 (m + 1))
  firstHigh (hl : s.level (pollStart s (m + 1)) = .high) :
    CompletedAs s u .deviceNotFound 0 (pollsEvents q s (m + 1) ++ [.rst .high]) (pollStart s (m + 1) + 1) false
      (s.pageAt (pollStart s m + 2)) (crcregAfter c s.crcreg (s.pageAt (pollStart s m + 2))) (BitVec.ofNat 32 (m + 1))
  secondHigh (hl : s.level (pollStart s (m + 1)) = .low) (hl' : s.level (pollStart s (m + 1) + 1) = .high) :
    CompletedAs s u .deviceNotFound 0 (pollsEvents q s (m + 1) ++ (pageEvents 0xB8 0 ++ [.rst .high]))
      (pollStart s (m + 1) + 2) false (s.pageAt (pollStart s m + 2))
      (crcregAfter c s.crcreg (s.pageAt (pollStart s m + 2))) (BitVec.ofNat 32 (m + 1))

theorem PolledTo.endsAfter {q : Poll} {c : Bool} {s t : State} {m : Nat} (h : PolledTo q c s m t)
    (hready : pollReady q c s (pollStart s m) = true) : EndsAfter q c s m (pollOnce q c (hasData q c) t) := by
  obtain ⟨u, hend, hafter⟩ := h.ready hready
  rw [hend]
  refine ⟨fun hl => ?_, fun hl => hafter.finalRead_first_high hl q c,
    fun hl hl' => hafter.finalRead_second_high hl hl' q c⟩
  rw [← crcregAfter_crcregAfter c s.crcreg (s.pageAt (pollStart s m + 2))]
  exact hafter.finalRead_low hl q c

/-! ### From the issue on -/

theorem wellFormed_blockingRead (q : Poll) (c : Bool) : (blockingRead q c).wellFormed = true := by cases q <;> rfl

theorem sequenceOf_blockingRead (q : Poll) (c : Bool) :
    sequenceOf (blockingRead q c) = startConversion q ++ [.pollLoop q c] := by cases q <;> rfl

/-- With presence at its start command, a blocking read comes to its first poll. -/
theorem exec_blockingRead (q : Poll) (c : Bool) {s : State} (hl : s.level 0 = .low) :
    ∃ t, PolledTo q c s 0 t ∧ exec (blockingRead q c) s = .next (pollOnce q c (hasData q c) t) := by
  have hrun : runSeq (sequenceOf (blockingRead q c)) s = (.poll q c, { s.commanded q.command with pollcnt := 0 }) := by
    rw [sequenceOf_blockingRead, runSeq_startConversion, if_pos hl]
    rfl
  have hafter := (IsAfter.refl s).commanded hl q.command
  rw [command_eq_wireCommand] at hafter hrun
  refine ⟨{ s.commanded (wireCommand q) with pollcnt := 0, seq := .polling q c (hasData q c) }, ⟨rfl, ?_⟩, ?_⟩
  · refine hafter.with_registers ?_
    rw [pollsBuf, ← hafter.buf, pollsCrcreg, ← hafter.crcreg]
    rfl
  · rw [exec_eq_runOp, runOp, hrun]
    exact congrArg Host.Outcome.next (pollOnce_seq q c (hasData q c) (.polling q c (hasData q c)) _).symm

theorem step_blockingRead {q : Poll} {c : Bool} {s : State} (h : blockingReadIssued q c s) :
    step s = exec (blockingRead q c) s := by
  obtain ⟨hbusy, hseq, hagenda, hcmd, -⟩ := h
  refine stepRunsDecodedOperation s (blockingRead q c) hbusy hseq hagenda ?_
  rw [hcmd]
  exact decodeOfEncodeIsIdentity _ (wellFormed_blockingRead q c)

theorem run_succ {M : Host.Core} {k : Nat} {s t : M.State} (h : M.run k s = .next t) : M.run (k + 1) s = M.step t := by
  induction k generalizing s with
  | zero =>
    obtain rfl := Host.Outcome.next.inj h
    simp only [Host.Core.run]
    cases M.step s <;> rfl
  | succ k ih =>
    rw [Host.Core.run] at h ⊢
    split at h
    · next s' hs => exact ih h
    · cases h
    · cases h

/-- After `m` polls that did not answer Ok, a blocking read is at poll number `m`, which the next step makes. -/
theorem run_blockingRead {q : Poll} {c : Bool} {s : State} {m : Nat} (h : blockingReadIssued q c s)
    (hready : ∀ n < m, pollReady q c s (pollStart s n) = false) (hbound : ∀ n < m, boundAbove s n) :
    ∃ t, PolledTo q c s m t ∧ Sys2Proof.core.run (m + 1) s = .next (pollOnce q c (hasData q c) t) := by
  have ⟨hbusy, _, hagenda, _, hl⟩ := h
  induction m with
  | zero =>
    obtain ⟨t, ht, hexec⟩ := exec_blockingRead q c hl
    exact ⟨t, ht, (run_succ (M := Sys2Proof.core) (k := 0) rfl).trans ((step_blockingRead h).trans hexec)⟩
  | succ m ih =>
    obtain ⟨t, ht, hrun⟩ := ih (fun n hn => hready n (by omega)) (fun n hn => hbound n (by omega))
    have hnext := ht.failed (hready m (by omega)) (hbound m (by omega))
    exact ⟨_, hnext,
      (run_succ hrun).trans (step_polling (hnext.busy.trans hbusy) hnext.seq (hnext.agenda.trans hagenda))⟩

/-! ### The statements -/

theorem encode_blockingRead (q : Poll) (c : Bool) :
    (encode (blockingRead q c)).toNat = (blockingOp q).toNat + 2 ^ 16 * c.toNat := by cases q <;> cases c <;> rfl

theorem isTransaction_blockingRead (q : Poll) (c : Bool) : isTransaction (blockingRead q c) = true := by
  cases q <;> cases c <;> rfl

/-- Settles O38: the failed polls one by one, the ready one, and the final page read. -/
theorem blockingReadCompletesAfterBusyPolls : Obligations.BlockingReadCompletesAfterBusyPolls := by
  intro q c s m h hbound hfailed hready k polled
  obtain ⟨t, ht, hrun⟩ := run_blockingRead h hfailed fun n hn => hbound.imp id fun hlt => by omega
  have hends := ht.endsAfter hready
  exact ⟨_, hrun, hends.read, hends.firstHigh, hends.secondHigh⟩

/-- Settles O37: the same with no failed poll, in one `exec`. -/
theorem blockingReadWithFirstPollReady : Obligations.BlockingReadWithFirstPollReady := by
  refine fun q c s => ⟨encode_blockingRead q c, ?absent, ?read⟩
  case absent =>
    exact absentDeviceAbortsEveryTransaction _ s (isTransaction_blockingRead q c) (wellFormed_blockingRead q c)
  case read =>
    have hends (hl : s.level 0 = .low) (hready : pollReady q c s 1 = true) :
        ∃ u, exec (blockingRead q c) s = .next u ∧ EndsAfter q c s 0 u := by
      obtain ⟨t, ht, hexec⟩ := exec_blockingRead q c hl
      exact ⟨_, hexec, ht.endsAfter hready⟩
    have hnext (hready : pollReady q c s 1 = true) :
        pollStart s 1 = 75 ∧ pollsEvents q s 1 = .rst .low :: (wb 0xCC ++ wb (wireCommand q)) ++ s.pageReadEvents 0 1 := by
      obtain ⟨⟨hfirst, hsecond⟩, -⟩ := pollReady_iff.mp hready
      simp [pollStart, pollSamples, pollsEvents, pollEvents, functionEvents, hfirst, hsecond]
    refine ⟨fun hl hready hlow => ?_, fun hl hready hhigh => ?_, fun hl hready hlow hhigh => ?_⟩
    all_goals
      obtain ⟨u, hexec, hread, hfirst, hsecond⟩ := hends hl hready
      obtain ⟨hstart, hevents⟩ := hnext hready
      rw [Nat.zero_add, hstart, hevents] at hread hfirst hsecond
    · exact ⟨u, hexec, hread hlow⟩
    · exact ⟨u, hexec, hfirst hhigh⟩
    · exact ⟨u, hexec, hsecond hlow hhigh⟩

/-- Settles O40: with no bound every poll that fails is followed by another. -/
theorem unboundedPollNeverCompletes : Obligations.UnboundedPollNeverCompletes := by
  intro q c s m h hlimit hfailed
  have hbound (n : Nat) : boundAbove s n := .inl hlimit
  obtain ⟨t, ht, hrun⟩ := run_blockingRead (m := m) h (fun n hn => hfailed n (by omega)) fun n _ => hbound n
  have hnext := ht.failed (hfailed m (Nat.le_refl m)) (hbound m)
  refine ⟨_, hrun, hnext.busy.trans h.1, ?_, hnext.result, ?_, by rw [hnext.seq]; nofun, ?_, ?_, hnext.after.drawn⟩
  all_goals rw [hnext.after]; rfl

/-- Settles O41: the polls up to the bound, and the one that reaches it. -/
theorem pollLimitEndsInTimeout : Obligations.PollLimitEndsInTimeout := by
  refine ⟨fun q c s m h hlimit hfailed => ⟨?timeout, ?before⟩, fun q c s hbusy hseq hagenda hready hpos hreached => ?step⟩
  case timeout =>
    obtain ⟨t, ht, hrun⟩ := run_blockingRead (m := m) h (fun n hn => hfailed n (by omega))
      fun n hn => .inr (by omega)
    exact ⟨_, hrun, ht.timedOut (hfailed m (Nat.le_refl m)) hlimit⟩
  case before =>
    intro j hj
    cases j with
    | zero => exact ⟨s, rfl, h.1, rfl⟩
    | succ j =>
      obtain ⟨t, ht, hrun⟩ := run_blockingRead (m := j) h (fun n hn => hfailed n (by omega))
        fun n hn => .inr (by omega)
      have hnext := ht.failed (hfailed j (by omega)) (.inr (by omega))
      exact ⟨_, hrun, hnext.busy.trans h.1, hnext.result⟩
  case step =>
    obtain ⟨f, u, hrun, hgo, hafter⟩ := (IsAfter.refl s).runSeq_hasData q c
    have hf : f ≠ .go := fun h => by simp [hgo.mp h] at hready
    have hbound : BoundReached u := (boundReached_iff hafter).mpr ⟨hpos, hreached⟩
    refine ⟨_, step_polling hbusy hseq hagenda, ?_⟩
    rw [pollOnce_of_failed hrun hf, pollAgain_of_bound hbound]
    have hend := hafter.counted.complete (pollEvents_isEmpty s 0) .timeout 0
    rw [Nat.zero_add] at hend
    exact hend

end Sys2Proof.Proofs

/-! What no operation depends on (10_state.md R28, R31; 70_reset_and_hazards.md R266): states that differ only there are
carried by every statement to states that differ only there, and so by whole operations. -/

namespace Sys2Proof.Proofs

open Sys2Proof Sys2Proof.Machine Sys2Proof.Claims

/-! ### Related states through a whole operation -/

/-- `P` where the sequence entered the readiness loop, else `R`. -/
def landsIn (R P : State → State → Prop) : Flow → State → State → Prop
  | .poll _ _ => P
  | _ => R

/-- From states related by `R` the sequence ends in the same way and in related states. -/
def Agree (R P : State → State → Prop) (k : List Stmt) : Prop :=
  ∀ s s', R s s' →
    (runSeq k s').1 = (runSeq k s).1 ∧ landsIn R P (runSeq k s).1 (runSeq k s).2 (runSeq k s').2

/-- What completing, leaving a sequence for the next step and counting a poll do to related states; `R` relates states
before the readiness loop and `P` inside it. -/
structure Carries (R P Q : State → State → Prop) : Prop where
  completed {s s' : State} (h : R s s') (c : ResultCode) (v : Word) : Q (s.complete c v) (s'.complete c v)
  left {s s' : State} (h : R s s') {q : Seq} (hq : q ≠ .idle) : Q { s with seq := q } { s' with seq := q }
  inLoop {s s' : State} (h : P s s') : R s s'
  counted {s s' : State} (h : P s s') : P { s with pollcnt := s.pollcnt + 1 } { s' with pollcnt := s'.pollcnt + 1 }
  bound {s s' : State} (h : P s s') : BoundReached s' ↔ BoundReached s

section Carries

variable {R P Q : State → State → Prop} (hc : Carries R P Q)
include hc

theorem settle_agree {k : List Stmt} {s s' : State} (hk : Agree R P k) (h : R s s') :
    Q (settle (runSeq k s)) (settle (runSeq k s')) := by
  obtain ⟨hflow, hland⟩ := hk s s' h
  rcases hrun : runSeq k s with ⟨f, t⟩
  rcases hrun' : runSeq k s' with ⟨f', t'⟩
  rw [hrun, hrun'] at hflow hland
  obtain rfl : f' = f := hflow
  cases f' with
  | go => exact hc.completed hland _ _
  | ret v => exact hc.completed hland _ _
  | fail c => exact hc.completed hland _ _
  | branch k' => exact hc.left hland nofun
  | poll q c => exact hc.left (hc.inLoop hland) nofun

theorem pollOnce_agree {q : Poll} {c : Bool} {s s' : State} (hpoll : Agree P P (hasData q c))
    (hfinal : Agree R P (finalRead q c)) (h : P s s') :
    Q (pollOnce q c (hasData q c) s) (pollOnce q c (hasData q c) s') := by
  obtain ⟨hflow, hland⟩ := hpoll s s' h
  rcases hrun : runSeq (hasData q c) s with ⟨f, t⟩
  rcases hrun' : runSeq (hasData q c) s' with ⟨f', t'⟩
  rw [hrun, hrun'] at hflow hland
  obtain rfl : f' = f := hflow
  have hP : P t t' := by cases f' <;> exact hland
  have hcounted := hc.counted hP
  by_cases hgo : f' = .go
  · subst hgo
    rw [pollOnce_of_ready hrun, pollOnce_of_ready hrun']
    exact settle_agree hc hfinal (hc.inLoop hcounted)
  · rw [pollOnce_of_failed hrun hgo, pollOnce_of_failed hrun' hgo]
    by_cases hb : BoundReached t
    · rw [pollAgain_of_bound hb, pollAgain_of_bound ((hc.bound hP).mpr hb)]
      exact hc.completed (hc.inLoop hcounted) _ _
    · rw [pollAgain_of_not_bound hb, pollAgain_of_not_bound (mt (hc.bound hP).mp hb)]
      exact hc.left (hc.inLoop hcounted) nofun

end Carries

/-- A sequence branches only at the pause of IAD. -/
theorem exists_of_runSeq_branch {k k' : List Stmt} {s t : State} (h : runSeq k s = (.branch k', t)) :
    ∃ iad v, k' = thresholdRest iad v := by
  induction k generalizing s with
  | nil => cases h
  | cons m ms ih =>
    rcases hm : doStmt m s with ⟨f, s'⟩
    by_cases hf : f = .go
    · subst hf
      rw [runSeq_cons_go ms hm] at h
      exact ih h
    · rw [runSeq_cons_stop ms hm hf, Prod.mk.injEq] at h
      have hflow := doStmt_flow m s
      rw [hm, h.1] at hflow
      obtain hgo | ⟨c, hfail⟩ | ⟨v, rfl⟩ | ⟨v, rfl⟩ | ⟨q, c, rfl⟩ := hflow
      · cases hgo
      · cases hfail
      · rw [h.1] at hm; cases hm
      · rw [h.1, doStmt, Prod.mk.injEq, Flow.branch.injEq] at hm
        exact ⟨_, v, hm.1.symm⟩
      · rw [h.1] at hm; cases hm

/-- Related states stay related through an operation whose sequences all agree. -/
theorem runOp_agree {R P Q : State → State → Prop} (hc : Carries R P Q) {k : List Stmt} (hk : Agree R P k)
    (hrest : ∀ iad v, Agree R P (thresholdRest iad v)) (hpoll : ∀ q c, Agree P P (hasData q c))
    (hfinal : ∀ q c, Agree R P (finalRead q c)) {s s' : State} (h : R s s') : Q (runOp k s) (runOp k s') := by
  obtain ⟨hflow, hland⟩ := hk s s' h
  have hsettle := settle_agree hc hk h
  unfold runOp
  rcases hrun : runSeq k s with ⟨f, t⟩
  rcases hrun' : runSeq k s' with ⟨f', t'⟩
  rw [hrun, hrun'] at hflow hland hsettle
  obtain rfl : f' = f := hflow
  cases f' with
  | branch k' =>
    obtain ⟨iad, v, rfl⟩ := exists_of_runSeq_branch hrun
    exact settle_agree hc (hrest iad v) hland
  | poll q c => exact pollOnce_agree hc (hpoll q c) (hfinal q c) hland
  | _ => exact hsettle

theorem agree_of_doStmt {R : State → State → Prop}
    (h : ∀ m s s', R s s' → (doStmt m s').1 = (doStmt m s).1 ∧ R (doStmt m s).2 (doStmt m s').2) (k : List Stmt) :
    Agree R R k := by
  have hland (f : Flow) (t t' : State) (ht : R t t') : landsIn R R f t t' := by cases f <;> exact ht
  induction k with
  | nil => exact fun s s' hs => ⟨rfl, hs⟩
  | cons m ms ih =>
    intro s s' hs
    obtain ⟨hflow, hR⟩ := h m s s' hs
    rcases hm : doStmt m s with ⟨f, t⟩
    rcases hm' : doStmt m s' with ⟨f', t'⟩
    rw [hm, hm'] at hflow hR
    obtain rfl : f' = f := hflow
    by_cases hf : f' = .go
    · subst hf
      rw [runSeq_cons_go ms hm, runSeq_cons_go ms hm']
      exact ih t t' hR
    · rw [runSeq_cons_stop ms hm hf, runSeq_cons_stop ms hm' hf]
      exact ⟨rfl, hland _ _ _ hR⟩

/-! ### Parameters, earlier results and the pin history: nothing that a statement reads -/

/-- `s` with other parameters, other values in RESULT, RVAL, DONE and PRESENCE, and another pin history. -/
def State.withUnread (s : State) (cfg : Config) (r : ResultCode) (v : Word) (d : Bool) (pins : List PinEvent)
    (p : Bool) : State :=
  { s with cfg := cfg, result := r, rval := v, done := d, pins := pins, presence := p }

section Unread

variable (cfg : Config) (r : ResultCode) (v : Word) (d : Bool)

theorem writeBit_unread (b : Bool) (pins : List PinEvent) (p : Bool) (s : State) :
    ∃ pins', (State.withUnread s cfg r v d pins p).writeBit b = State.withUnread (s.writeBit b) cfg r v d pins' p :=
  ⟨_, by rw [State.writeBit_eq, State.writeBit_eq]; rfl⟩

theorem sendBit_unread (pins : List PinEvent) (p : Bool) (s : State) :
    ∃ pins', (State.withUnread s cfg r v d pins p).sendBit = State.withUnread s.sendBit cfg r v d pins' p :=
  ⟨_, by rw [State.sendBit, State.sendBit, State.writeBit_eq, State.writeBit_eq]; rfl⟩

theorem recvBit_unread (pins : List PinEvent) (p : Bool) (s : State) :
    ∃ pins', (State.withUnread s cfg r v d pins p).recvBit = State.withUnread s.recvBit cfg r v d pins' p :=
  ⟨_, by rw [State.recvBit, State.recvBit, State.readBit_eq, State.readBit_eq]; rfl⟩

theorem touchBit_unread (pins : List PinEvent) (p : Bool) (s : State) :
    ∃ pins', (State.withUnread s cfg r v d pins p).touchBit = State.withUnread s.touchBit cfg r v d pins' p := by
  have hbit : (State.withUnread s cfg r v d pins p).shiftBit = s.shiftBit := rfl
  rw [State.touchBit, State.touchBit, hbit]
  split
  · exact recvBit_unread cfg r v d pins p s
  · exact sendBit_unread cfg r v d pins p s

/-- A statement does the same to the rest of the state. -/
theorem doStmt_unread (m : Stmt) (pins : List PinEvent) (p : Bool) (s : State) :
    ∃ pins' p', doStmt m (State.withUnread s cfg r v d pins p) =
      ((doStmt m s).1, State.withUnread (doStmt m s).2 cfg r v d pins' p') := by
  have hslot {g : State → State} (hm : ∀ u, doStmt m u = (.go, g u))
      (h : ∃ pins', g (State.withUnread s cfg r v d pins p) = State.withUnread (g s) cfg r v d pins' p) :
      ∃ pins' p', doStmt m (State.withUnread s cfg r v d pins p) =
        ((doStmt m s).1, State.withUnread (doStmt m s).2 cfg r v d pins' p') := by
    obtain ⟨pins', h⟩ := h
    exact ⟨pins', p, by rw [hm, hm, h]⟩
  cases m with
  | reset => exact ⟨_, _, by simp only [doStmt, State.resetSlot_eq]; rfl⟩
  | writeBit b => exact hslot (fun _ => rfl) (writeBit_unread cfg r v d b pins p s)
  | sendBit => exact hslot (fun _ => rfl) (sendBit_unread cfg r v d pins p s)
  | recvBit => exact hslot (fun _ => rfl) (recvBit_unread cfg r v d pins p s)
  | touchBit => exact hslot (fun _ => rfl) (touchBit_unread cfg r v d pins p s)
  | _ => exact ⟨pins, p, rfl⟩

/-- `t` is `s` with these parameters and these earlier results; only the bound on the polls is the same. -/
def SameButUnread (s t : State) : Prop :=
  (∃ pins p, t = State.withUnread s cfg r v d pins p) ∧ cfg.pollLimit = s.cfg.pollLimit

/-- The same after an operation: RESULT, RVAL and DONE are its own once it has completed. -/
def LeavesSame (s t : State) : Prop :=
  t = { s with cfg := cfg, result := t.result, rval := t.rval, done := t.done, pins := t.pins, presence := t.presence } ∧
    (s.seq = .idle → t.result = s.result ∧ t.rval = s.rval ∧ t.done = s.done) ∧
    (s.seq ≠ .idle → t.result = r ∧ t.rval = v ∧ t.done = d)

theorem carries_unread :
    Carries (SameButUnread cfg r v d) (SameButUnread cfg r v d) (LeavesSame cfg r v d) where
  completed := by
    rintro s _ ⟨⟨pins, p, rfl⟩, -⟩ c w
    exact ⟨rfl, fun _ => ⟨rfl, rfl, rfl⟩, fun h => absurd rfl h⟩
  left := by
    rintro s _ ⟨⟨pins, p, rfl⟩, -⟩ q hq
    exact ⟨rfl, fun h => absurd h hq, fun _ => ⟨rfl, rfl, rfl⟩⟩
  inLoop := id
  counted := by
    rintro s _ ⟨⟨pins, p, rfl⟩, hlimit⟩
    exact ⟨⟨pins, p, rfl⟩, hlimit⟩
  bound := by
    rintro s _ ⟨⟨pins, p, rfl⟩, hlimit⟩
    rw [BoundReached, BoundReached, ← hlimit]
    rfl

theorem agree_unread (k : List Stmt) : Agree (SameButUnread cfg r v d) (SameButUnread cfg r v d) k := by
  refine agree_of_doStmt ?_ k
  rintro m s _ ⟨⟨pins, p, rfl⟩, hlimit⟩
  obtain ⟨pins', p', h⟩ := doStmt_unread cfg r v d m pins p s
  obtain ⟨es, hes, -⟩ := doStmt_effect m s
  rw [h]
  exact ⟨rfl, ⟨pins', p', rfl⟩, hlimit.trans (by rw [hes.cfg])⟩

theorem leavesSame_exec {i : Instr} {s t : State} (hlimit : cfg.pollLimit = s.cfg.pollLimit)
    (hexec : exec i s = .next t) (pins : List PinEvent) (p : Bool) :
    ∃ t', exec i (State.withUnread s cfg r v d pins p) = .next t' ∧ LeavesSame cfg r v d t t' := by
  rw [exec_eq_runOp, Host.Outcome.next.injEq] at hexec
  refine ⟨_, exec_eq_runOp i _, ?_⟩
  rw [← hexec]
  have hagree := agree_unread cfg r v d
  exact runOp_agree (carries_unread cfg r v d) (hagree _) (fun _ _ => hagree _) (fun _ _ => hagree _)
    (fun _ _ => hagree _) ⟨⟨pins, p, rfl⟩, hlimit⟩

end Unread

/-- From states with the same H, an operation that leaves the same H has put the same slots on the line. -/
theorem same_slots {i : Instr} {s s' t t' : State} (h : exec i s = .next t) (h' : exec i s' = .next t')
    (hs : s'.bus = s.bus) (ht : t'.bus = t.bus) : ∃ es, Emits s t es ∧ Emits s' t' es := by
  obtain ⟨es, hes⟩ := emits_of_reaches (.inl h)
  obtain ⟨es', hes'⟩ := emits_of_reaches (.inl h')
  have hbus : t.bus = s.bus ++ es := hes.bus
  have hbus' : t'.bus = s'.bus ++ es' := hes'.bus
  have hsame : s.bus ++ es = s.bus ++ es' := by rw [← hbus, ← ht, hbus', hs]
  rw [← List.append_cancel_left hsame] at hes'
  exact ⟨es, hes, hes'⟩

/-- Settles O58: only the pin history tells the parameters apart. -/
theorem timingParametersDoNotMatter : Obligations.TimingParametersDoNotMatter := by
  intro i s t cfg pins hlimit h
  obtain ⟨t', h', hsame, hidle, hrun⟩ := leavesSame_exec cfg s.result s.rval s.done hlimit h pins s.presence
  obtain ⟨es, hes, hes'⟩ := same_slots h h' rfl (by rw [hsame])
  have hpresence : t'.presence = t.presence := hes'.presence.trans hes.presence.symm
  have hresults : t'.result = t.result ∧ t'.rval = t.rval ∧ t'.done = t.done := by
    by_cases hseq : t.seq = .idle
    · exact hidle hseq
    · obtain ⟨hr, hv, hd⟩ := hrun hseq
      obtain ⟨hr', hv', hd', -⟩ := control_of_reaches (.inl h) hseq
      exact ⟨hr.trans hr'.symm, hv.trans hv'.symm, hd.trans hd'.symm⟩
  obtain ⟨hr, hv, hd⟩ := hresults
  refine ⟨t', h', ?_⟩
  rw [hpresence, hr, hv, hd] at hsame
  exact hsame

/-- PRESENCE is the last reset's, whatever it was before. -/
theorem presenceIn_of_reset {es : List BusEvent} (h : ∃ l, .rst l ∈ es) (p p' : Bool) :
    presenceIn p es = presenceIn p' es := by
  induction es generalizing p p' with
  | nil => obtain ⟨l, hl⟩ := h; cases hl
  | cons e es ih =>
    cases e with
    | rst l => rfl
    | w b => exact ih (by simpa using h) p p'
    | r l => exact ih (by simpa using h) p p'

theorem presenceIn_of_no_reset {es : List BusEvent} (h : ∀ l, .rst l ∉ es) (p : Bool) : presenceIn p es = p := by
  induction es with
  | nil => rfl
  | cons e es ih =>
    cases e with
    | rst l => exact absurd (List.mem_cons_self) (h l)
    | w b => exact ih fun l hl => h l (List.mem_cons_of_mem _ hl)
    | r l => exact ih fun l hl => h l (List.mem_cons_of_mem _ hl)

/-- Settles O59: the old values stay where the operation writes none. -/
theorem earlierResultsDoNotMatter : Obligations.EarlierResultsDoNotMatter := by
  intro i s t r v d p h
  obtain ⟨t', h', hsame, hidle, hrun⟩ := leavesSame_exec s.cfg r v d rfl h s.pins p
  obtain ⟨es, hes, hes'⟩ := same_slots h h' rfl (by rw [hsame])
  have hcfg : t.cfg = s.cfg := hes.cfg
  have hpins : t'.pins = t.pins := hes'.pins.trans hes.pins.symm
  refine ⟨t', h', ?_, hidle, hrun, fun es' hbus => ?_⟩
  · rw [← hcfg, hpins] at hsame
    exact hsame
  · have hes_eq : es' = es := List.append_cancel_left (hbus.symm.trans hes.bus)
    subst hes_eq
    exact ⟨fun hreset => hes'.presence.trans ((presenceIn_of_reset hreset _ _).trans hes.presence.symm),
      fun hreset => hes'.presence.trans (presenceIn_of_no_reset hreset p)⟩

end Sys2Proof.Proofs

/-! The working registers (10_state.md R31): each sequence sets SHIFT, BITCNT and BYTECNT before it reads them, and the
readiness loop sets POLLCNT. -/

namespace Sys2Proof.Proofs

open Sys2Proof Sys2Proof.Machine Sys2Proof.Claims

/-! ### A check that every sequence initialises what it uses -/

/-- The statement sets SHIFT and BITCNT. -/
def setsBits : Stmt → Bool
  | .load _ => true
  | .loadBuf => true
  | _ => false

/-- The statement sets BYTECNT. -/
def setsBytes : Stmt → Bool
  | .startBlock => true
  | _ => false

/-- The statement reads SHIFT or BITCNT. -/
def usesBits : Stmt → Bool
  | .sendBit => true
  | .recvBit => true
  | .touchBit => true
  | .storeBuf => true
  | .storeRom => true
  | .ret .shift => true
  | _ => false

/-- The statement reads BYTECNT, but to count it up. -/
def usesBytes : Stmt → Bool
  | .loadBuf => true
  | .storeBuf => true
  | .storeRom => true
  | _ => false

/-- Each statement reads only what is set: `bits` and `bytes` say whether SHIFT and BITCNT, and BYTECNT, are set before. -/
def initialises (bits bytes : Bool) : List Stmt → Bool
  | [] => true
  | m :: ms => (!usesBits m || bits) && (!usesBytes m || bytes) &&
    initialises (setsBits m || bits) (setsBytes m || bytes) ms

theorem initialises_mono {bits bytes bits' bytes' : Bool} (hb : bits = true → bits' = true)
    (hy : bytes = true → bytes' = true) {k : List Stmt} (h : initialises bits bytes k = true) :
    initialises bits' bytes' k = true := by
  induction k generalizing bits bytes bits' bytes' with
  | nil => rfl
  | cons m ms ih =>
    simp only [initialises, Bool.and_eq_true, Bool.or_eq_true] at h ⊢
    obtain ⟨⟨hbits, hbytes⟩, hms⟩ := h
    exact ⟨⟨hbits.imp_right hb, hbytes.imp_right hy⟩, ih (by grind) (by grind) hms⟩

theorem initialises_append {bits bytes : Bool} {k k' : List Stmt} (h : initialises bits bytes k = true)
    (h' : initialises bits bytes k' = true) : initialises bits bytes (k ++ k') = true := by
  induction k generalizing bits bytes with
  | nil => exact h'
  | cons m ms ih =>
    simp only [List.cons_append, initialises, Bool.and_eq_true] at h ⊢
    exact ⟨h.1, ih h.2 (initialises_mono (by grind) (by grind) h')⟩

theorem initialises_repeatSeq {bits bytes : Bool} {body : List Stmt} (h : initialises bits bytes body = true) (n : Nat) :
    initialises bits bytes (repeatSeq n body) = true := by
  induction n with
  | zero => rfl
  | succ n ih => exact initialises_append h ih

/-- Statements that read none of them. -/
theorem initialises_of_all {bits bytes : Bool} {k : List Stmt} (h : ∀ m ∈ k, usesBits m = false ∧ usesBytes m = false) :
    initialises bits bytes k = true := by
  induction k generalizing bits bytes with
  | nil => rfl
  | cons m ms ih =>
    obtain ⟨hbits, hbytes⟩ := h m List.mem_cons_self
    simp [initialises, hbits, hbytes, ih fun m hm => h m (List.mem_cons_of_mem _ hm)]

theorem initialises_crcSeq (src : CrcSource) (n : Nat) : initialises false false (crcSeq src n) = true := by
  refine initialises_of_all fun m hm => ?_
  simp only [crcSeq, List.mem_cons, List.mem_flatMap, List.mem_map] at hm
  obtain rfl | ⟨k, -, i, -, rfl⟩ := hm <;> exact ⟨rfl, rfl⟩

theorem initialises_touchBlockSeq (n : Nat) : initialises false false (touchBlockSeq n) = true :=
  initialises_repeatSeq (bits := false) (bytes := true) rfl n

theorem initialises_functionFrame (command : Byte) : initialises false false (functionFrame command) = true :=
  initialises_append (k := .reset :: writeByteSeq 0xCC) rfl rfl

theorem initialises_pageFrame (command page : Byte) : initialises false false (pageFrame command page) = true :=
  initialises_append (initialises_functionFrame command) rfl

theorem initialises_receivePageSeq : initialises false false receivePageSeq = true :=
  initialises_repeatSeq (bits := false) (bytes := true) rfl 9

theorem initialises_receiveRomSeq : initialises false false receiveRomSeq = true :=
  initialises_repeatSeq (bits := false) (bytes := true) rfl 8

theorem initialises_sendPageSeq : initialises false false sendPageSeq = true :=
  initialises_repeatSeq (bits := false) (bytes := true) rfl 9

theorem initialises_pageRead (p : Byte) : initialises false false (pageRead p) = true :=
  initialises_append (initialises_append (initialises_pageFrame 0xB8 p) (initialises_pageFrame 0xBE p))
    initialises_receivePageSeq

theorem initialises_pageWrite (p : Byte) : initialises false false (pageWrite p) = true :=
  initialises_append (initialises_append (initialises_pageFrame 0x4E p) initialises_sendPageSeq)
    (initialises_pageFrame 0x48 p)

theorem initialises_romRead (c : Bool) : initialises false false (romRead c) = true := by
  show initialises false false (writeByteSeq 0x33 ++ receiveRomSeq ++ (if c then checkRomSeq else [])) = true
  refine initialises_append (initialises_append rfl initialises_receiveRomSeq) ?_
  cases c with
  | true => exact initialises_append (initialises_crcSeq .rom 7) rfl
  | false => rfl

theorem initialises_startConversion (q : Poll) : initialises false false (startConversion q) = true := by
  cases q <;> exact initialises_functionFrame _

theorem initialises_pageReadChecked (p : Byte) (c : Bool) :
    initialises false false (pageReadChecked p c) = true := by
  refine initialises_append (initialises_pageRead p) ?_
  cases c with
  | true => exact initialises_append (initialises_crcSeq .buf 8) rfl
  | false => rfl

theorem initialises_hasData (q : Poll) (c : Bool) : initialises false false (hasData q c) = true :=
  initialises_append (initialises_pageReadChecked 0 c) rfl

theorem initialises_finalRead (q : Poll) (c : Bool) : initialises false false (finalRead q c) = true :=
  initialises_append (initialises_pageReadChecked 0 c) (by cases q <;> rfl)

theorem initialises_setStatusBit (b : StatusBit) (v : Bool) : initialises false false (setStatusBit b v) = true :=
  initialises_append (initialises_append (initialises_pageRead 0) rfl) (initialises_pageWrite 0)

theorem initialises_thresholdRest (iad : Bool) (v : Byte) : initialises false false (thresholdRest iad v) = true := by
  have htail : initialises false false (thresholdTail v) = true := initialises_pageWrite 0
  cases iad with
  | true => exact initialises_append (initialises_setStatusBit .iad false) htail
  | false => exact htail

theorem initialises_sequenceOf (i : Instr) : initialises false false (sequenceOf i) = true := by
  cases i with
  | crc8Compute n => exact initialises_append (initialises_crcSeq .buf n.toNat) rfl
  | crc8Check e n => exact initialises_append (initialises_crcSeq .buf n.toNat) rfl
  | touchBlock n => exact initialises_touchBlockSeq n.toNat
  | readRom c => exact initialises_romRead c
  | readSerialNumber c => exact initialises_romRead c
  | startVoltageConversion => exact initialises_startConversion .voltage
  | startTemperatureConversion => exact initialises_startConversion .temperature
  | readPage p => exact initialises_pageRead p
  | writePage p => exact initialises_pageWrite p
  | hasVoltageData c => exact initialises_hasData .voltage c
  | hasTemperatureData c => exact initialises_hasData .temperature c
  | readVoltage c => exact initialises_append (initialises_startConversion .voltage) rfl
  | readTemperature c => exact initialises_append (initialises_startConversion .temperature) rfl
  | copyInProgress => exact initialises_append (initialises_pageRead 0) rfl
  | readThreshold c => exact initialises_append (initialises_pageReadChecked 0 c) rfl
  | getIca c => exact initialises_append (initialises_pageReadChecked 1 c) rfl
  | getCapacity c => exact initialises_append (initialises_pageReadChecked 1 c) rfl
  | selectInputSource v c =>
    exact initialises_append (initialises_append (initialises_pageReadChecked 0 c) rfl) (initialises_pageWrite 0)
  | enableIad | disableIad | enableCa | disableCa | enableShadowEe | disableShadowEe =>
    exact initialises_setStatusBit _ _
  | writeThreshold v => exact initialises_append (initialises_pageRead 0) rfl
  | _ => rfl

/-! ### States that differ only in the working registers -/

/-- `t` is `s` but for the working registers, and of these the ones marked as set are the same too. -/
structure SameButWorking (bits bytes polls : Bool) (s t : State) : Prop where
  rest : t = { s with shift := t.shift, bitcnt := t.bitcnt, bytecnt := t.bytecnt, pollcnt := t.pollcnt }
  shift : bits = true → t.shift = s.shift
  bitcnt : bits = true → t.bitcnt = s.bitcnt
  bytecnt : bytes = true → t.bytecnt = s.bytecnt
  pollcnt : polls = true → t.pollcnt = s.pollcnt

theorem SameButWorking.mono {bits bytes polls bits' bytes' polls' : Bool} {s t : State}
    (h : SameButWorking bits bytes polls s t) (hb : bits' = true → bits = true) (hy : bytes' = true → bytes = true)
    (hp : polls' = true → polls = true) : SameButWorking bits' bytes' polls' s t :=
  ⟨h.rest, fun h' => h.shift (hb h'), fun h' => h.bitcnt (hb h'), fun h' => h.bytecnt (hy h'), fun h' => h.pollcnt (hp h')⟩

/-- The statement enters the readiness loop. -/
def setsPolls : Stmt → Bool
  | .pollLoop _ _ => true
  | _ => false

theorem sendBit_counts (s : State) (byc : BitVec 4) (po : Word) :
    State.sendBit { s with bytecnt := byc, pollcnt := po } = { s.sendBit with bytecnt := byc, pollcnt := po } := by
  rw [State.sendBit, State.sendBit, State.writeBit_eq, State.writeBit_eq]
  rfl

theorem recvBit_counts (s : State) (byc : BitVec 4) (po : Word) :
    State.recvBit { s with bytecnt := byc, pollcnt := po } = { s.recvBit with bytecnt := byc, pollcnt := po } := by
  rw [State.recvBit, State.recvBit, State.readBit_eq, State.readBit_eq]
  rfl

theorem touchBit_counts (s : State) (byc : BitVec 4) (po : Word) :
    State.touchBit { s with bytecnt := byc, pollcnt := po } = { s.touchBit with bytecnt := byc, pollcnt := po } := by
  have hbit : State.shiftBit { s with bytecnt := byc, pollcnt := po } = s.shiftBit := rfl
  rw [State.touchBit, State.touchBit, hbit]
  split
  · exact recvBit_counts s byc po
  · exact sendBit_counts s byc po

/-- A bit of a byte, where BYTECNT and POLLCNT differ. -/
theorem SameButWorking.of_counts {bits bytes polls : Bool} {s : State} {byc : BitVec 4} {po : Word} {g : State → State}
    (hg : g { s with bytecnt := byc, pollcnt := po } = { g s with bytecnt := byc, pollcnt := po })
    (hbyte : (g s).bytecnt = s.bytecnt) (hpoll : (g s).pollcnt = s.pollcnt) (hbytecnt : bytes = true → byc = s.bytecnt)
    (hpollcnt : polls = true → po = s.pollcnt) :
    SameButWorking bits bytes polls (g s) (g { s with bytecnt := byc, pollcnt := po }) := by
  rw [hg]
  exact ⟨rfl, fun _ => rfl, fun _ => rfl, fun h => (hbytecnt h).trans hbyte.symm, fun h => (hpollcnt h).trans hpoll.symm⟩

/-- A statement does the same to the rest of the state where what it reads is set. -/
theorem doStmt_working {bits bytes polls : Bool} {m : Stmt} {s t : State} (h : SameButWorking bits bytes polls s t)
    (hbits : (!usesBits m || bits) = true) (hbytes : (!usesBytes m || bytes) = true) :
    (doStmt m t).1 = (doStmt m s).1 ∧ SameButWorking (setsBits m || bits) (setsBytes m || bytes) (setsPolls m || polls)
      (doStmt m s).2 (doStmt m t).2 := by
  obtain ⟨hrest, hshift, hbitcnt, hbytecnt, hpollcnt⟩ := h
  generalize t.shift = sh at hrest hshift
  generalize t.bitcnt = bi at hrest hbitcnt
  generalize t.bytecnt = byc at hrest hbytecnt
  generalize t.pollcnt = po at hrest hpollcnt
  subst hrest
  cases m with
  | reset =>
    refine ⟨rfl, ?_⟩
    rw [doStmt, doStmt, State.resetSlot_eq, State.resetSlot_eq]
    exact ⟨rfl, hshift, hbitcnt, hbytecnt, hpollcnt⟩
  | writeBit b =>
    refine ⟨rfl, ?_⟩
    rw [doStmt, doStmt, State.writeBit_eq, State.writeBit_eq]
    exact ⟨rfl, hshift, hbitcnt, hbytecnt, hpollcnt⟩
  | load x => exact ⟨rfl, rfl, fun _ => rfl, fun _ => rfl, hbytecnt, hpollcnt⟩
  | loadBuf =>
    obtain rfl := hbytecnt hbytes
    exact ⟨rfl, rfl, fun _ => rfl, fun _ => rfl, fun _ => rfl, hpollcnt⟩
  | sendBit =>
    obtain rfl := hshift hbits
    obtain rfl := hbitcnt hbits
    exact ⟨rfl, .of_counts (g := State.sendBit) (sendBit_counts s byc po) (State.writeBit_bytecnt _ _)
      (State.writeBit_pollcnt _ _) hbytecnt hpollcnt⟩
  | recvBit =>
    obtain rfl := hshift hbits
    obtain rfl := hbitcnt hbits
    exact ⟨rfl, .of_counts (g := State.recvBit) (recvBit_counts s byc po) (State.readBit_bytecnt _)
      (State.readBit_pollcnt _) hbytecnt hpollcnt⟩
  | touchBit =>
    obtain rfl := hshift hbits
    obtain rfl := hbitcnt hbits
    exact ⟨rfl, .of_counts (g := State.touchBit) (touchBit_counts s byc po) (touchBit_bytecnt s) (touchBit_pollcnt s)
      hbytecnt hpollcnt⟩
  | startBlock => exact ⟨rfl, rfl, hshift, hbitcnt, fun _ => rfl, hpollcnt⟩
  | storeBuf =>
    obtain rfl := hshift hbits
    obtain rfl := hbytecnt hbytes
    exact ⟨rfl, rfl, fun _ => rfl, hbitcnt, fun _ => rfl, hpollcnt⟩
  | storeRom =>
    obtain rfl := hshift hbits
    obtain rfl := hbytecnt hbytes
    exact ⟨rfl, rfl, fun _ => rfl, hbitcnt, fun _ => rfl, hpollcnt⟩
  | nextByte => exact ⟨rfl, rfl, hshift, hbitcnt, fun hy => congrArg (· + 1) (hbytecnt hy), hpollcnt⟩
  | pollLoop q c => exact ⟨rfl, rfl, hshift, hbitcnt, hbytecnt, fun _ => rfl⟩
  | ret v =>
    refine ⟨?_, rfl, hshift, hbitcnt, hbytecnt, hpollcnt⟩
    cases v with
    | shift => exact congrArg (fun x => Flow.ret (wordOfByte x)) (hshift hbits)
    | _ => rfl
  | _ => exact ⟨rfl, rfl, hshift, hbitcnt, hbytecnt, hpollcnt⟩

/-! ### Whole sequences -/

/-- Between sequences, before the readiness loop. -/
abbrev BeforeLoop : State → State → Prop := SameButWorking false false false

/-- Between sequences, in the readiness loop. -/
abbrev InLoop : State → State → Prop := SameButWorking false false true

/-- The statement that enters the readiness loop has set POLLCNT. -/
theorem setsPolls_of_poll {m : Stmt} {s s' : State} {q : Poll} {c : Bool} (h : doStmt m s = (.poll q c, s')) :
    setsPolls m = true := by
  have hflow := doStmt_flow m s
  rw [h] at hflow
  obtain hgo | ⟨_, hfail⟩ | ⟨v, rfl⟩ | ⟨v, rfl⟩ | ⟨q, c, rfl⟩ := hflow
  · cases hgo
  · cases hfail
  · cases h
  · cases h
  · rfl

theorem runSeq_working {bits bytes polls : Bool} {k : List Stmt} (hk : initialises bits bytes k = true) {s t : State}
    (h : SameButWorking bits bytes polls s t) :
    (runSeq k t).1 = (runSeq k s).1 ∧
      landsIn (SameButWorking false false polls) InLoop (runSeq k s).1 (runSeq k s).2 (runSeq k t).2 := by
  induction k generalizing bits bytes polls s t with
  | nil => exact ⟨rfl, h.mono nofun nofun id⟩
  | cons m ms ih =>
    simp only [initialises, Bool.and_eq_true] at hk
    obtain ⟨⟨hbits, hbytes⟩, hms⟩ := hk
    obtain ⟨hflow, hsame⟩ := doStmt_working h hbits hbytes
    have hkept : polls = true → (setsPolls m || polls) = true := fun hp => by rw [hp, Bool.or_true]
    rcases hm : doStmt m s with ⟨f, s'⟩
    rcases hm' : doStmt m t with ⟨f', t'⟩
    rw [hm, hm'] at hflow hsame
    obtain rfl : f' = f := hflow
    by_cases hf : f' = .go
    · subst hf
      rw [runSeq_cons_go ms hm, runSeq_cons_go ms hm']
      exact ih hms (hsame.mono id id hkept)
    · rw [runSeq_cons_stop ms hm hf, runSeq_cons_stop ms hm' hf]
      refine ⟨rfl, ?_⟩
      cases f' with
      | poll q c => exact hsame.mono nofun nofun fun _ => by rw [setsPolls_of_poll hm, Bool.true_or]
      | _ => exact hsame.mono nofun nofun hkept

theorem agree_beforeLoop {k : List Stmt} (hk : initialises false false k = true) : Agree BeforeLoop InLoop k :=
  fun _ _ h => runSeq_working hk h

theorem agree_inLoop {k : List Stmt} (hk : initialises false false k = true) : Agree InLoop InLoop k :=
  fun _ _ h => runSeq_working hk h

theorem carries_working : Carries BeforeLoop InLoop BeforeLoop where
  completed h c v := by
    rw [h.rest]
    exact ⟨rfl, nofun, nofun, nofun, nofun⟩
  left h _ _ := by
    rw [h.rest]
    exact ⟨rfl, nofun, nofun, nofun, nofun⟩
  inLoop h := h.mono nofun nofun nofun
  counted h := by
    have hpolls := h.pollcnt rfl
    rw [h.rest]
    exact ⟨rfl, nofun, nofun, nofun, fun _ => congrArg (· + 1) hpolls⟩
  bound h := by
    rw [BoundReached, BoundReached, h.pollcnt rfl, h.rest]

/-- Settles O60: every sequence initialises what it uses, and the loop its counter. -/
theorem workingRegistersDoNotMatter : Obligations.WorkingRegistersDoNotMatter := by
  intro i s t sh bi by' po h
  rw [exec_eq_runOp, Host.Outcome.next.injEq] at h
  refine ⟨_, exec_eq_runOp i _, ?_⟩
  rw [← h]
  have hstart : BeforeLoop s { s with shift := sh, bitcnt := bi, bytecnt := by', pollcnt := po } :=
    ⟨rfl, nofun, nofun, nofun, nofun⟩
  exact (runOp_agree carries_working (agree_beforeLoop (initialises_sequenceOf i))
    (fun iad v => agree_beforeLoop (initialises_thresholdRest iad v))
    (fun q c => agree_inLoop (initialises_hasData q c))
    (fun q c => agree_beforeLoop (initialises_finalRead q c)) hstart).rest

end Sys2Proof.Proofs

/-! CRCREG tick by tick (10_state.md R24, 40_crc8.md R121): the ticks of a CRC evaluation are its input bits, wherever in an
operation it stands. -/

namespace Sys2Proof.Proofs

open Sys2Proof Sys2Proof.Machine Sys2Proof.Claims

/-! ### Ticks through the beginning of a sequence -/

/-- The same place of the sequencer with other statements left to run. -/
def withRest : Seq → List Stmt → Seq
  | .running _, k => .running k
  | .polling q c _, k => .polling q c k
  | q, _ => q

theorem withRest_rest (q : Seq) : withRest q q.rest = q := by cases q <;> rfl

theorem withRest_withRest (q : Seq) (k k' : List Stmt) : withRest (withRest q k) k' = withRest q k' := by
  cases q <;> rfl

theorem rest_withRest {q : Seq} {pre k : List Stmt} (h : q.rest = pre ++ k) : (withRest q k).rest = k := by
  cases q with
  | running _ => rfl
  | polling _ _ _ => rfl
  | _ => exact (List.append_eq_nil_iff.mp h.symm).2.symm

/-- A tick of a statement that goes on, in the readiness loop or outside it. -/
theorem tick_of_rest {s s' : State} {m : Stmt} {ms : List Stmt} (h : s.seq.rest = m :: ms)
    (hm : doStmt m s = (.go, s')) : s.tick = { s' with seq := withRest s.seq ms } := by
  cases hseq : s.seq with
  | idle => rw [hseq] at h; cases h
  | issued => rw [hseq] at h; cases h
  | running k =>
    obtain rfl : k = m :: ms := by rw [hseq] at h; exact h
    exact tick_running_go hseq hm
  | polling q c k =>
    obtain rfl : k = m :: ms := by rw [hseq] at h; exact h
    exact tick_polling_go hseq hm

/-- As many ticks as the beginning has statements run it. -/
theorem ticks_of_rest {pre k : List Stmt} {s u : State} (h : s.seq.rest = pre ++ k) (hrun : runSeq pre s = (.go, u)) :
    State.ticks pre.length s = { u with seq := withRest s.seq k } := by
  induction pre generalizing s u with
  | nil =>
    obtain rfl : s = u := (Prod.mk.inj hrun).2
    obtain rfl : s.seq.rest = k := h
    rw [withRest_rest]
    rfl
  | cons m ms ih =>
    rcases hm : doStmt m s with ⟨f, s'⟩
    have hf : f = .go := by
      by_contra hf
      rw [runSeq_cons_stop ms hm hf, Prod.mk.injEq] at hrun
      exact hf hrun.1
    subst hf
    have htick := tick_of_rest h hm
    have hrest : s.tick.seq.rest = ms ++ k := by rw [htick]; exact rest_withRest (pre := [m]) h
    have hrun' : runSeq ms s.tick = (.go, { u with seq := s.tick.seq }) := by
      rw [runSeq_cons_go ms hm] at hrun
      rw [htick, runSeq_seq, hrun]
    refine (ih hrest hrun').trans ?_
    rw [htick, withRest_withRest]

/-! ### A CRC evaluation, bit by bit -/

/-- The byte and bit numbers of a CRC evaluation over `n` bytes, in the order it takes them. -/
def crcSteps (n : Nat) : List (Nat × Nat) := (List.range n).flatMap fun k => (List.range 8).map fun i => (k, i)

theorem crcSteps_length (n : Nat) : (crcSteps n).length = 8 * n := by
  simp [crcSteps, Nat.mul_comm]

theorem crcSeq_eq_steps (src : CrcSource) (n : Nat) :
    crcSeq src n = .crcInit :: (crcSteps n).map fun x => .crcBit src x.1 x.2 := by
  simp [crcSeq, crcSteps, List.map_flatMap, Function.comp_def]

theorem inputBits_eq_steps (f : Nat → Byte) (n : Nat) :
    inputBits ((List.range n).map f) = (crcSteps n).map fun x => (f x.1).getLsbD x.2 := by
  simp [-BitVec.getLsbD_eq_getElem, inputBits, crcSteps, List.flatMap_map, List.map_flatMap, Function.comp_def]

theorem runSeq_crcSteps (src : CrcSource) (steps : List (Nat × Nat)) (s : State) :
    runSeq (steps.map fun x => .crcBit src x.1 x.2) s =
      (.go, { s with crcreg := (steps.map fun x => (s.crcData src x.1).getLsbD x.2).foldl crcBit s.crcreg }) := by
  induction steps generalizing s with
  | nil => rfl
  | cons x xs ih =>
    rw [List.map_cons, runSeq_cons_go _ rfl, ih]
    cases src <;> rfl

/-- The first `j` bits of an evaluation. -/
theorem runSeq_take_crcSeq (src : CrcSource) (n j : Nat) (s : State) :
    runSeq ((crcSeq src n).take (1 + j)) s =
      (.go, { s with crcreg := crcOfBits ((inputBits ((List.range n).map (s.crcData src))).take j) }) := by
  rw [crcSeq_eq_steps, inputBits_eq_steps, Nat.add_comm, List.take_succ_cons, ← List.map_take, ← List.map_take,
    runSeq_cons_go _ rfl, runSeq_crcSteps, crcOfBits_eq_foldl_crcBit]
  cases src <;> rfl

/-- From some tick on CRCREG holds 0 and then the CRC of one input bit more, up to all of `data`. -/
def RunsCrc (s : State) (data : List Byte) : Prop :=
  ∃ m, ∀ j ≤ 8 * data.length, (State.ticks (m + j) s).crcreg = crcOfBits ((inputBits data).take j)

theorem RunsCrc.of_ticks {m : Nat} {s : State} {data : List Byte} (h : RunsCrc (State.ticks m s) data) :
    RunsCrc s data := by
  obtain ⟨n, hn⟩ := h
  exact ⟨m + n, fun j hj => by rw [Nat.add_assoc, ticks_add]; exact hn j hj⟩

/-- An evaluation that stands at the head of what is left to run. -/
theorem runsCrc_of_head {src : CrcSource} {n : Nat} {k : List Stmt} {s : State} (h : s.seq.rest = crcSeq src n ++ k) :
    RunsCrc s ((List.range n).map (s.crcData src)) := by
  refine ⟨1, fun j hj => ?_⟩
  have hlength : ((crcSeq src n).take (1 + j)).length = 1 + j := by
    simp only [List.length_map, List.length_range] at hj
    rw [List.length_take, crcSeq_eq_steps, List.length_cons, List.length_map, crcSteps_length]
    omega
  have hsplit : s.seq.rest = (crcSeq src n).take (1 + j) ++ ((crcSeq src n).drop (1 + j) ++ k) := by
    rw [h, ← List.append_assoc, List.take_append_drop]
  rw [← hlength, ticks_of_rest hsplit (runSeq_take_crcSeq src n j s)]

/-- An evaluation that stands after a beginning that goes on. -/
theorem runsCrc_of_rest {src : CrcSource} {n : Nat} {pre k : List Stmt} {s u : State}
    (h : s.seq.rest = pre ++ (crcSeq src n ++ k)) (hrun : runSeq pre s = (.go, u)) :
    RunsCrc s ((List.range n).map (u.crcData src)) := by
  refine RunsCrc.of_ticks (m := pre.length) ?_
  rw [ticks_of_rest h hrun]
  have hhead := runsCrc_of_head (s := { u with seq := withRest s.seq (crcSeq src n ++ k) }) (rest_withRest h)
  cases src <;> exact hhead

theorem map_crcData_buf {n : Nat} (hn : n ≤ 9) (s : State) :
    (List.range n).map (s.crcData .buf) = s.buf.toList.take n := by
  apply List.ext_getElem
  · simp [hn]
  · intro i h _
    simp only [List.length_map, List.length_range] at h
    simp [State.crcData, show i < 9 by omega]

theorem map_crcData_rom {n : Nat} (hn : n ≤ 8) (s : State) :
    (List.range n).map (s.crcData .rom) = s.rom.toList.take n := by
  apply List.ext_getElem
  · simp [hn]
  · intro i h _
    simp only [List.length_map, List.length_range] at h
    simp [State.crcData, show i < 8 by omega]

/-! ### Where the operations evaluate a CRC -/

/-- A checked page read ahead of `t`, whose resets detect presence; the samples are counted from `s` on. -/
theorem runsCrc_of_pageRead {s t : State} {n : Nat} (hs : t.samples = s.samples) (hd : t.drawn = s.drawn + n) {p : Byte}
    (hp : p.toNat ≤ 7) {k : List Stmt} (h : t.seq.rest = pageReadChecked p true ++ k) (hl : resetsLow s n) :
    RunsCrc t ((s.pageAt (2 + n)).toList.take 8) := by
  have hrest : t.seq.rest = pageRead p ++ (crcSeq .buf 8 ++ (.checkBuf :: k)) := by
    rw [h, pageReadChecked_append, if_pos rfl, checkBufSeq, List.append_assoc, List.singleton_append]
  have hfirst : t.level 0 = .low := (State.level_of_drawn hs hd 0).trans (by rw [Nat.zero_add]; exact hl.1)
  have hsecond : t.level 1 = .low := (State.level_of_drawn hs hd 1).trans (by rw [Nat.add_comm]; exact hl.2)
  have hrun : runSeq (pageRead p) t = (.go, t.pageWasRead p) := by
    rw [← List.append_nil (pageRead p), runSeq_pageRead_of_resetsLow hp ⟨hfirst, hsecond⟩]
    rfl
  have hcrc := runsCrc_of_rest hrest hrun
  rw [map_crcData_buf (by decide), ((IsAfter.refl t).pageWasRead ⟨hfirst, hsecond⟩ p).buf] at hcrc
  rw [← State.pageAt_of_drawn hs hd]
  exact hcrc

/-- LEN is within its range in a word that decodes to a CRC evaluation over BUF (30_encoding.md R100). -/
theorem len_le_of_decode {w : Word} {i : Instr} {n : BitVec 4} (hi : i = .crc8Compute n ∨ ∃ e, i = .crc8Check e n)
    (h : decode w = .ok i) : n.toNat ≤ 9 := by
  have hencode := encodeOfDecodeIsIdentity w i h
  obtain ⟨-, hop⟩ := decode_ok_iff.mp h
  have hfields : ((opField w).toNat = 1 ∨ (opField w).toNat = 2) ∧ lenField w = n := by
    rw [← hencode]
    obtain rfl | ⟨e, rfl⟩ := hi <;> simp [encode]
  obtain ⟨hcode, rfl⟩ := hfields
  have hlegal : legalLen (lenField w) = true := by
    obtain hcode | hcode := hcode
    · simp only [decodeOp, hcode] at hop
      exact (decodeLen_ok_iff.mp hop).1
    · simp only [decodeOp, hcode] at hop
      exact (decodeLen_ok_iff.mp hop).1
  exact of_decide_eq_true hlegal

theorem sequenceOf_checkedPageReads {i : Instr} (h : i ∈ checkedPageReads) :
    ∃ p k, p.toNat ≤ 7 ∧ (sequenceOf i = pageReadChecked p true ++ k ∨
      sequenceOf i = .param true :: (pageReadChecked p true ++ k)) := by
  simp only [checkedPageReads, List.mem_cons, List.not_mem_nil, or_false] at h
  obtain rfl | rfl | rfl | rfl | rfl | rfl | rfl := h
  · exact ⟨0, _, by decide, .inl rfl⟩
  · exact ⟨0, _, by decide, .inl rfl⟩
  · exact ⟨0, _, by decide, .inl rfl⟩
  · exact ⟨1, _, by decide, .inl rfl⟩
  · exact ⟨1, _, by decide, .inl rfl⟩
  · exact ⟨0, _, by decide, .inr (congrArg _ (List.append_assoc _ _ _))⟩
  · exact ⟨0, _, by decide, .inr (congrArg _ (List.append_assoc _ _ _))⟩

/-- A blocking read with presence at its start command comes to its first poll. -/
theorem ticks_to_firstPoll {q : Poll} {c : Bool} {t : State}
    (h : t.seq = .running (startConversion q ++ [.pollLoop q c])) (hl : t.level 0 = .low) :
    ∃ n w, State.ticks n t = w ∧ w.seq = .polling q c (hasData q c) ∧ w.samples = t.samples ∧ w.drawn = t.drawn + 1 := by
  have hrun : runSeq (startConversion q) t = (.go, t.commanded q.command) := by
    rw [← List.append_nil (startConversion q), runSeq_startConversion, if_pos hl]
    rfl
  have hticks := ticks_of_rest (s := t) (k := [.pollLoop q c]) (by rw [h]; rfl) hrun
  rw [h] at hticks
  have hafter := (IsAfter.refl t).commanded hl q.command
  generalize t.commanded q.command = u at hticks hafter
  refine ⟨(startConversion q).length + 1, { u with pollcnt := 0, seq := .polling q c (hasData q c) }, ?_, rfl,
    hafter.samples, hafter.drawn⟩
  rw [ticks_add, hticks]
  exact tick_running_stop (s := { u with seq := .running [.pollLoop q c] }) rfl rfl nofun

section Issued

variable {i : Instr} {s : State} (hseq : s.seq = .issued) (hi : decode s.cmd = .ok i)
include hseq hi

/-- The first tick only enters the sequence. -/
theorem runsCrc_of_issued {data : List Byte} (h : RunsCrc { s with seq := .running (sequenceOf i) } data) :
    RunsCrc s data := by
  refine RunsCrc.of_ticks (m := 1) ?_
  rw [State.ticks, State.ticks, tick_issued hseq hi]
  exact h

theorem runsCrc_overBuf {n : BitVec 4} (hn : i = .crc8Compute n ∨ ∃ e, i = .crc8Check e n) :
    RunsCrc s (s.buf.toList.take n.toNat) := by
  have hlen : n.toNat ≤ 9 := len_le_of_decode hn hi
  refine runsCrc_of_issued hseq hi ?_
  have hrest : ∃ k, sequenceOf i = [.param true] ++ (crcSeq .buf n.toNat ++ k) := by
    have hlegal : legalLen n = true := decide_eq_true hlen
    obtain rfl | ⟨e, rfl⟩ := hn
    · exact ⟨_, by rw [sequenceOf, seqCrc8Compute, hlegal]; rfl⟩
    · exact ⟨_, by rw [sequenceOf, seqCrc8Check, hlegal]; rfl⟩
  obtain ⟨k, hk⟩ := hrest
  have hcrc := runsCrc_of_rest (s := { s with seq := .running (sequenceOf i) }) hk (runSeq_param_true [] _)
  rw [map_crcData_buf hlen] at hcrc
  exact hcrc

theorem runsCrc_overRom (hrom : i = .readRom true ∨ i = .readSerialNumber true) (hl : s.level 0 = .low) :
    RunsCrc s ((s.romAt 1).toList.take 7) := by
  refine runsCrc_of_issued hseq hi ?_
  have hrest : sequenceOf i = (.reset :: (writeByteSeq 0x33 ++ receiveRomSeq)) ++ (crcSeq .rom 7 ++ [.checkRom]) := by
    obtain rfl | rfl := hrom <;> rfl
  generalize hs' : ({ s with seq := .running (sequenceOf i) } : State) = s'
  have hl' : s'.level 0 = .low := by rw [← hs']; exact hl
  have hrun : runSeq (.reset :: (writeByteSeq 0x33 ++ receiveRomSeq)) s' = (.go, s'.romWasRead) := by
    rw [runSeq_reset_low hl', runSeq_append_go (runSeq_writeByteSeq 0x33 _), runSeq_receiveRomSeq]
    rfl
  have hcrc := runsCrc_of_rest (s := s') (by rw [← hs']; exact hrest) hrun
  rw [map_crcData_rom (by decide), State.romWasRead_eq hl'] at hcrc
  rw [← hs'] at hcrc
  rw [← hs']
  exact hcrc

theorem runsCrc_overPage (hpage : i ∈ checkedPageReads) (hl : resetsLow s 0) :
    RunsCrc s ((s.pageAt 2).toList.take 8) := by
  refine runsCrc_of_issued hseq hi ?_
  obtain ⟨p, k, hp, hk | hk⟩ := sequenceOf_checkedPageReads hpage
  · exact runsCrc_of_pageRead (s := s) (n := 0) rfl rfl hp hk hl
  · refine RunsCrc.of_ticks (m := [Stmt.param true].length) ?_
    rw [ticks_of_rest (s := { s with seq := .running (sequenceOf i) }) (pre := [.param true])
      (k := pageReadChecked p true ++ k) hk (runSeq_param_true [] _)]
    exact runsCrc_of_pageRead (s := s) (n := 0) rfl rfl hp rfl hl

/-- The start command, the tick that enters the readiness loop, and its first poll. -/
theorem runsCrc_firstPoll {q : Poll} (hblocking : i = blockingRead q true) (hl : s.level 0 = .low)
    (hl' : resetsLow s 1) : RunsCrc s ((s.pageAt 3).toList.take 8) := by
  refine runsCrc_of_issued hseq hi ?_
  have hstart : Seq.running (sequenceOf i) = .running (startConversion q ++ [.pollLoop q true]) := by
    rw [hblocking, sequenceOf_blockingRead]
  obtain ⟨n, w, hw, hpolling, hsamples, hdrawn⟩ :=
    ticks_to_firstPoll (t := { s with seq := .running (sequenceOf i) }) hstart hl
  refine RunsCrc.of_ticks (m := n) ?_
  have hrest : w.seq.rest = pageReadChecked 0 true ++ [.failIfBusy q] := by rw [hpolling]; rfl
  rw [hw]
  exact runsCrc_of_pageRead (s := s) (n := 1) hsamples hdrawn (by decide) hrest hl'

end Issued

theorem hasData_append (q : Poll) (c : Bool) : hasData q c = pageReadChecked 0 c ++ [.failIfBusy q] := by rw [hasData]

theorem finalRead_append (q : Poll) (c : Bool) : finalRead q c = pageReadChecked 0 c ++ [.ret q.decode] := by
  rw [finalRead]

/-- A later poll, and the final page read. -/
theorem runsCrc_poll {q : Poll} {s : State}
    (hseq : s.seq = .polling q true (hasData q true) ∨ s.seq = .running (finalRead q true)) (hl : resetsLow s 0) :
    RunsCrc s ((s.pageAt 2).toList.take 8) := by
  have hrest : ∃ k, s.seq.rest = pageReadChecked 0 true ++ k := by
    obtain hseq | hseq := hseq
    · exact ⟨[.failIfBusy q], by rw [hseq, ← hasData_append]; rfl⟩
    · exact ⟨[.ret q.decode], by rw [hseq, ← finalRead_append]; rfl⟩
  obtain ⟨k, hk⟩ := hrest
  exact runsCrc_of_pageRead (s := s) (n := 0) rfl rfl (by decide) hk hl

/-- Settles O17: each evaluation stands behind a beginning that the hypotheses let through. -/
theorem crcregHoldsRunningCrc : Obligations.CrcregHoldsRunningCrc := by
  refine ⟨fun i s hseq hi => ⟨fun n hn => runsCrc_overBuf hseq hi hn, fun hrom hl => runsCrc_overRom hseq hi hrom hl,
    fun hpage hl => runsCrc_overPage hseq hi hpage hl, fun hblocking hl hl' => ?_⟩, fun q s hseq hl => runsCrc_poll hseq hl⟩
  obtain rfl | rfl := hblocking
  · exact runsCrc_firstPoll (q := .voltage) hseq hi rfl hl hl'
  · exact runsCrc_firstPoll (q := .temperature) hseq hi rfl hl hl'

end Sys2Proof.Proofs
